-- ==== Sys2Proof/Word.lean ====
section
/-! DEFINITION. The word types of the FM read channel: a port byte, the 16-bit CRC register,
the 11-bit BUS word and the 3-bit EV code (spec rules R6, R8, R47, R53). -/

namespace Sys2Proof

/-- A port byte, and the width of the clock and data shift registers (R6). -/
abbrev Byte := BitVec 8

/-- The width of the CRC register (R18). -/
abbrev CrcWord := BitVec 16

/-- One host access in format `BUS` (R47). -/
abbrev BusWord := BitVec 11

/-- One event code in format `EV` (R53). -/
abbrev EvCode := BitVec 3

end Sys2Proof
end

