-- ==== Sys2Proof/Config.lean ====
section
/-! DEFINITION. The parameters the spec leaves to the implementation (rule R7). A model "takes each as an
argument": State holds one `Config`, which no step ever writes, so a statement about every state is a
statement about every choice of the parameters. After them the free values that stand for what the Medium Source
answers (rules R38, R39). -/

namespace Sys2Proof

/-- The polarity of a status bit (R7, R51): with `high`, 1 asserts the condition. -/
inductive Polarity where
  | high
  | low
deriving DecidableEq, Repr

/-- The parameters of rule R7, each under the spec's name. -/
structure Config where
  /-- `H`, the half-bit-cell period in ticks. -/
  halfBit       : Nat
  /-- `NDRIVES`, the number of drives fitted. -/
  nDrives       : Nat
  /-- `PORT_BASE`, the address of the control/status port. -/
  portBase      : Nat
  /-- `TIMEOUT_PERIOD`, the delay the timeout timer is armed with. -/
  timeoutPeriod : Nat
  /-- `STATUS_FILL_C`, bits 4:0 of a control/status read. -/
  statusFillC   : BitVec 5
  /-- `STATUS_FILL_D`, bits 4:0 of a drive-select read. -/
  statusFillD   : BitVec 5
  /-- `POL_PRESENT`, the polarity of the drive-present bit. -/
  polPresent    : Polarity
  /-- `POL_WPROT`, the polarity of the write-protect bit. -/
  polWprot      : Polarity
deriving DecidableEq, Repr

/-- The constraints of rule R7: `H >= 1`, `NDRIVES` from 1 to 8, `TIMEOUT_PERIOD >= 1`. -/
def Config.wf (c : Config) : Bool :=
  decide (1 ≤ c.halfBit) && decide (1 ≤ c.nDrives) && decide (c.nDrives ≤ 8) &&
    decide (1 ≤ c.timeoutPeriod)

/-- The column "vectors" of rule R7, the values `State.reset` carries.
DESIGN CHOICE (log entry 6): the spec fixes none of them, and no statement rests on one. -/
def Config.vectors : Config where
  halfBit       := 100
  nDrives       := 2
  portBase      := 0
  timeoutPeriod := 1000000000
  statusFillC   := 0
  statusFillD   := 0
  polPresent    := .high
  polWprot      := .high

/-! ### The Medium Source as an oracle (R38, R39, D34, N23)

These constants have no body, so nothing can be proved of their values, and what is proved of the machine holds for
every choice of them. Rule R38 item 3 makes an answer "a function of `d`, `t` and the drive's state alone": a
number stands for a state of a drive. DESIGN CHOICE for the form, log entry 7. -/

/-- A free value: the ticks between transition `n` of flux stream `flux` and the tick after the one before it (before
transition 0: from time 0), or none when the stream has no transition `n`. A choice of gaps, without end or
not, is a stream of transitions, and every strictly rising stream has its gaps. -/
opaque Config.fluxGap (flux n : Nat) : Option Nat

/-- A free value: the level of drive status signal `signal` at time `t` (R39). -/
opaque Config.signalLevel (signal t : Nat) : Bool

/-- A free value: the number of the flux stream that takes the place of stream `flux` when its drive is sent direction and
step at time `t` (R40, U14). -/
opaque Config.fluxAfterCommand (flux t : Nat) (dir step : Bool) : Nat

/-- A free value: the number of the status signal that takes the place of `signal` then (R40, U14). -/
opaque Config.signalAfterCommand (signal t : Nat) (dir step : Bool) : Nat

end Sys2Proof
end

