-- ==== Sys2Proof/Syntax.lean ====
section
/-! DEFINITION. The operations of the FM read channel as one inductive, one constructor per row of
spec/opcode_table.json: eight `BUS` rows, five `EV` rows, ten micro-operations (rule R11). -/

namespace Sys2Proof

/-- The four virtual timers (R26), in the order rule R84 breaks ties by. -/
inductive TimerId where
  /-- `T_TIMEOUT` -/
  | timeout
  /-- `T_LOCK` -/
  | lock
  /-- `T_BYTE` -/
  | byte
  /-- `T_AUX` -/
  | aux
deriving DecidableEq, Repr

/-- The operations. A `BUS` operation is one host port access, an `EV` operation a timer callback or reset,
a micro-operation a piece of those that has no encoding of its own. -/
inductive Instr where
  /-- `RD_STATUS` (R92): read the control/status port. -/
  | rdStatus
  /-- `WR_CONTROL` (R93): write the control/status port, `v[3] = 0`. -/
  | wrControl (v : Byte)
  /-- `WR_CONTROL.WREN` (R95): write the control/status port, `v[3] = 1`. -/
  | wrControlWren (v : Byte)
  /-- `RD_DRVSTAT` (R97): read the drive-select port. -/
  | rdDrvstat
  /-- `WR_DRVSEL` (R98): write the drive-select port. -/
  | wrDrvsel (v : Byte)
  /-- `RD_DATA` (R99): read the data port. -/
  | rdData
  /-- `WR_DATA` (R101): write the data port. -/
  | wrData (v : Byte)
  /-- `NOT_DECODED` (R104): an access to `PORT = 3`, a write when `w`, else a read. -/
  | notDecoded (w : Bool)
  /-- `TICK_TIMEOUT` (R87): callback of `T_TIMEOUT`. -/
  | tickTimeout
  /-- `TICK_LOCK` (R68): callback of `T_LOCK`. -/
  | tickLock
  /-- `TICK_BYTE` (R77): callback of `T_BYTE`. -/
  | tickByte
  /-- `TICK_AUX` (R88): callback of `T_AUX`. -/
  | tickAux
  /-- `RESET` (R118): the reset input. -/
  | reset
  /-- `SEP` (R61): recover one half-bit. -/
  | sep
  /-- `SHIFT_CELL(crc_allowed)` (R75): one bit cell into the accumulators. -/
  | shiftCell (crcAllowed : Bool)
  /-- `CRC_STEP(d)` (R76): one bit of CRC-CCITT. -/
  | crcStep (d : Bool)
  /-- `BYTE_READY` (R78): announce a byte. -/
  | byteReady
  /-- `READ_ON` (R94): reading is turned on. -/
  | readOn
  /-- `READ_OFF` (R96): reading is turned off. -/
  | readOff
  /-- `SYNC_RESET` (R74): clear the Synchronizer's transient state. -/
  | syncReset
  /-- `ARM(k, delay)` (R80). -/
  | arm (k : TimerId) (delay : Nat)
  /-- `DISARM(k)` (R81). -/
  | disarm (k : TimerId)
  /-- `DELIVER` (R83): the scheduler's step. -/
  | deliver
deriving DecidableEq, Repr

end Sys2Proof
end

