-- ==== Sys2Proof/Machine/State.lean ====
section
/-! DEFINITION. The state of the FM read channel: every state element of spec/10_state.md (rules R13 to R29), and
beside them, as plain data the step reads, what the environment supplies (rules R31, R89): the parameters, the
medium, the pending inputs, and the record of the block's outputs. -/

namespace Sys2Proof.Machine

/-- `MODE` (R13). No rule produces `writing`; the value exists in the type (spec/93 U3). -/
inductive Mode where
  | idle
  | reading
  | writing
deriving DecidableEq, Repr

/-- `SYNC_STATE` (R14). -/
inductive SyncState where
  | searchingSync
  | searchingMark
  | locked
deriving DecidableEq, Repr

/-- The two host accesses the wait gate can hold (R29, R113). -/
inductive HeldOp where
  /-- a `WR_CONTROL` that turned reading on -/
  | wrControl
  /-- an `RD_DATA` that found `CONSUMED = 1` -/
  | rdData
deriving DecidableEq, Repr

/-- `GATE` (R29): open, or blocked on the one held access. -/
inductive Gate where
  | opened
  | blocked (op : HeldOp)
deriving DecidableEq, Repr

/-- `TIMER[k]` for the four timers (R26): a fire time, or none when disarmed. -/
structure Timers where
  timeout : Option Nat
  lock    : Option Nat
  byte    : Option Nat
  aux     : Option Nat
deriving DecidableEq, Repr

/-- A drive status signal, "a function of time" (R39), named by data. -/
inductive Signal where
  /-- written out: its level before the first toggle, and the times at which it changes -/
  | toggling (init : Bool) (toggles : List Nat)
  /-- any function of time whatever: the free value `Config.signalLevel` gives its level -/
  | free (signal : Nat)
deriving DecidableEq, Repr

/-- A flux stream (R33), named by data. -/
inductive Flux where
  /-- written out: its transition times, and none after them -/
  | listed (edges : List Nat)
  /-- any stream whatever, ending or not: the free value `Config.fluxGap` gives the gaps between its transitions -/
  | free (flux : Nat)
deriving DecidableEq, Repr

/-- What one drive shows the block as long as no command reaches it: its flux transitions (R33) and its five status
signals (R39). -/
structure DriveView where
  edges   : Flux
  ready   : Signal
  track0  : Signal
  index   : Signal
  present : Signal
  wprot   : Signal
deriving DecidableEq, Repr

/-- One drive of the Medium Source: what it shows now, and what it is prepared to show after each further `DriveCmd` it is
sent. After those a command gives it what the free values of Config say. The reaction of a drive to a command is the
environment's (R40). DESIGN CHOICE, log entry 8. -/
structure Drive where
  view  : DriveView
  later : List DriveView
deriving DecidableEq, Repr

/-- A drive of which nothing is known: its stream, its signals and its reactions are free, under numbers of its own. -/
def Drive.free (d : Nat) : Drive where
  view  := ⟨.free d, .free (5 * d), .free (5 * d + 1), .free (5 * d + 2), .free (5 * d + 3), .free (5 * d + 4)⟩
  later := []

/-- One pending input of the block (R59, R89). -/
inductive Input where
  /-- the host accesses the port address `addr` at virtual time `time` -/
  | access (time : Nat) (write : Bool) (addr : Nat) (data : Byte)
  /-- the reset input is raised at virtual time `time`, before (`early`) or after the timers due at that very time -/
  | reset (time : Nat) (early : Bool)
deriving DecidableEq, Repr

/-- One output of the block, with the virtual time at which it leaves. -/
inductive Event where
  /-- `DriveCmd(d, dir, step)` (R40) -/
  | driveCmd (time : Nat) (drive : Fin 8) (dir step : Bool)
  /-- the byte a read of the port at this offset returns to the host (R92, R97, R99, R100) -/
  | answer (time : Nat) (port : BitVec 2) (value : Byte)
  /-- the held `WR_CONTROL` completes (R103) -/
  | release (time : Nat)
deriving DecidableEq, Repr

/-- The state. The first sixteen fields are the spec's state elements, in the order of spec/10_state.md; the last five
are the model's own: the parameters, the environment's data, the record of outputs and a result latch. -/
@[ext]
structure State where
  /-- `MODE` (R13) -/
  mode      : Mode
  /-- `SYNC_STATE` (R14) -/
  syncState : SyncState
  /-- `SYNC_CNT` (R15) -/
  syncCnt   : Nat
  /-- `CLK_SR` (R16) -/
  clkSr     : Byte
  /-- `DATA_SR` (R17) -/
  dataSr    : Byte
  /-- `CRC` (R18) -/
  crc       : CrcWord
  /-- `DRIVE_SEL` (R19) -/
  driveSel  : Option (Fin 8)
  /-- `CRC_EN` (R20) -/
  crcEn     : Bool
  /-- `CRC_OUT` (R21) -/
  crcOut    : Bool
  /-- `CONSUMED` (R22) -/
  consumed  : Bool
  /-- `OVERRUN` (R23) -/
  overrun   : Bool
  /-- `CRC_ERR` (R24) -/
  crcErr    : Bool
  /-- `TIMER[k]` (R26) -/
  timers    : Timers
  /-- `PLL_TIME` (R27) -/
  pllTime   : Nat
  /-- `NOW` (R28) -/
  now       : Nat
  /-- `GATE` (R29) -/
  gate      : Gate
  /-- the parameters (R7); no step writes them -/
  cfg       : Config
  /-- the Medium Source: drive `d` is entry `d` (R33, R39) -/
  drives    : List Drive
  /-- the host's accesses and the reset input still to come, next first (R59, R89) -/
  inputs    : List Input
  /-- the outputs so far, latest first (R40) -/
  history   : List Event
  /-- the bit returned by the last `SEP` or `SHIFT_CELL` executed on its own (log entry 11) -/
  microBit  : Bool
deriving DecidableEq, Repr

/-- The block has no fault: "the block raises no exception" and the treatment `fault` is "never used" (R107, spec/93).
So this type has no constructor, and no step can answer a fault. -/
inductive Fault where
deriving DecidableEq, Repr

/-- Why an operation has no meaning. -/
inductive Refusal where
  /-- raised by an arm of `exec` whose instruction has no meaning yet; safe -/
  | notModelled (mnemonic : String)
  /-- raised by a control write with bit 3 set, which the spec refuses whatever its other bits (R95, R108); safe -/
  | writeEnable
  /-- raised by a write to the data port, which the spec refuses (R101, R108); safe -/
  | dataPortWrite
  /-- raised by `step` on an input whose bytes the decoder rejects; no input has such bytes
  (`Laws.input_decodes`), so no step answers it; safe -/
  | noSuchEncoding
deriving DecidableEq, Repr

/-- The machine right after `RESET` (R118 and the table of spec/10_state.md section 8). `NOW` starts at 0
(DESIGN CHOICE, log entry 12). The last five fields are no registers of the block: the parameters are those of
rule R7's column "vectors" (log entry 6), nothing is known of the drives (log entry 7), nothing is pending and nothing
has been put out. -/
def State.reset : State where
  mode      := .idle
  syncState := .searchingSync
  syncCnt   := 0
  clkSr     := 0
  dataSr    := 0
  crc       := 0
  driveSel  := none
  crcEn     := false
  crcOut    := false
  consumed  := true
  overrun   := false
  crcErr    := false
  timers    := ⟨none, none, none, none⟩
  pllTime   := 0
  now       := 0
  gate      := .opened
  cfg       := Config.vectors
  drives    := [.free 0, .free 1, .free 2, .free 3, .free 4, .free 5, .free 6, .free 7]
  inputs    := []
  history   := []
  microBit  := false

end Sys2Proof.Machine
end

