-- ==== Sys2Proof/Machine/Operands.lean ====
section
/-! DEFINITION. Operand forms: the fields of the two port bytes the host writes (rules R48, R50), the layout of the two
status bytes it reads (rules R49, R51), and the `BUS` word of an access (rules R32, R47, R104). -/

namespace Sys2Proof.Machine

/-! ### The control byte (R48); bits 7:5 take part in no rule -/

/-- `DIR`, bit 0. -/
def ctlDir (v : Byte) : Bool := v.getLsbD 0

/-- `STEP`, bit 1. -/
def ctlStep (v : Byte) : Bool := v.getLsbD 1

/-- `RDEN`, bit 2. -/
def ctlRden (v : Byte) : Bool := v.getLsbD 2

/-- `WREN`, bit 3. -/
def ctlWren (v : Byte) : Bool := v.getLsbD 3

/-- `CRCEN`, bit 4. -/
def ctlCrcen (v : Byte) : Bool := v.getLsbD 4

/-! ### The drive-select byte (R50, polarity by spec/90 C1); bits 7:4 take part in no rule -/

/-- `SEL`, bit 3: 1 selects drive `DRV`, 0 deselects all. -/
def selSel (v : Byte) : Bool := v.getLsbD 3

/-- `DRV`, bits 2:0, unsigned. -/
def selDrv (v : Byte) : Fin 8 := (v.extractLsb' 0 3).toFin

/-! ### Status bytes (R49, R51) -/

/-- A status byte from its fill field 4:0 and its bits 5, 6 and 7. -/
def statusByte (fill : BitVec 5) (b5 b6 b7 : Bool) : Byte :=
  BitVec.ofBool b7 ++ BitVec.ofBool b6 ++ BitVec.ofBool b5 ++ fill

/-- A condition as its status bit shows it: itself with `high`, its negation with `low` (R51). -/
def polarize (p : Polarity) (b : Bool) : Bool :=
  match p with
  | .high => b
  | .low  => !b

/-! ### The `BUS` word of a host access (R32, R47, R104) -/

/-- The `PORT` field of an access to an address: offsets 0, 1 and 2 from `PORT_BASE`, and 3, "not decoded", for every
other address (DEDUCED, log entry 19). The spec gives a port address no width: it is an unbounded natural number, and
`PORT_BASE + 1` and `PORT_BASE + 2` do not wrap (DESIGN CHOICE, log entry 22). -/
def portOf (c : Config) (addr : Nat) : BitVec 2 :=
  if addr = c.portBase then 0
  else if addr = c.portBase + 1 then 1
  else if addr = c.portBase + 2 then 2
  else 3

end Sys2Proof.Machine
end

