-- ==== Sys2Proof/Machine/Ops.lean ====
section
/-! DEFINITION. The named operations every meaning is built from: timers (rules R80, R81, R84), the primitives that
reach what is outside the block (R38, R39, R40), the outputs, and the one suspension mechanism of the block,
which stands where a processor takes and returns from an exception: the host is held (R102, R113) and resumed
(R100, R103, R114). -/

namespace Sys2Proof.Machine

/-! ### Parameters derived from `H` -/

/-- `CENTRE = H div 2` (R7). -/
def centre (c : Config) : Nat := c.halfBit / 2

/-- `LOCK_PERIOD`: two half-bit periods, one bit cell (R6). -/
def lockPeriod (c : Config) : Nat := 2 * c.halfBit

/-- A byte is eight bit cells (R55). -/
def cellsPerByte : Nat := 8

/-! ### Timers (R26, R80, R81) -/

/-- `TIMER[k]`. -/
def Timers.get (t : Timers) : TimerId → Option Nat
  | .timeout => t.timeout
  | .lock    => t.lock
  | .byte    => t.byte
  | .aux     => t.aux

/-- `TIMER[k] <- v`. -/
def Timers.set (t : Timers) (k : TimerId) (v : Option Nat) : Timers :=
  match k with
  | .timeout => { t with timeout := v }
  | .lock    => { t with lock := v }
  | .byte    => { t with byte := v }
  | .aux     => { t with aux := v }

/-- `ARM(k, delay)` (R80): the fire time replaces a pending one. -/
def arm (k : TimerId) (delay : Nat) (s : State) : State :=
  { s with timers := s.timers.set k (some (s.now + delay)) }

/-- `DISARM(k)` (R81). -/
def disarm (k : TimerId) (s : State) : State :=
  { s with timers := s.timers.set k none }

/-- The four timers in the order that breaks ties (R84). -/
def timerOrder : List TimerId := [.timeout, .lock, .byte, .aux]

/-- The earlier of two pending callbacks, the first one at a tie. -/
def sooner (a b : Option (TimerId × Nat)) : Option (TimerId × Nat) :=
  match a, b with
  | none, b          => b
  | some x, none     => some x
  | some x, some y   => if y.2 < x.2 then some y else some x

/-- The armed timer with the least fire time, ties in the order of `timerOrder` (R83, R84). -/
def earliest (t : Timers) : Option (TimerId × Nat) :=
  timerOrder.foldl (fun best k => sooner best ((t.get k).map fun f => (k, f))) none

/-! ### The Medium Source and the drives (R33, R38, R39) -/

/-- What drive `d` shows; an index at or above `NDRIVES` names no drive (R39, log entry 20). -/
def viewOf (s : State) (d : Fin 8) : Option DriveView :=
  if d.val < s.cfg.nDrives then (s.drives[d.val]?).map (·.view) else none

/-- The level of a signal at time `t` (R39): of one written out, every toggle at or before `t` has inverted it. -/
def Signal.level (g : Signal) (t : Nat) : Bool :=
  match g with
  | .toggling init toggles => (toggles.countP (fun u => decide (u ≤ t)) % 2 == 1) != init
  | .free k                => Config.signalLevel k t

/-- A status signal of drive `d` at time `t`; false for a drive that is not there (R39). -/
def driveSignal (s : State) (d : Fin 8) (g : DriveView → Signal) (t : Nat) : Bool :=
  match viewOf s d with
  | some v => (g v).level t
  | none   => false

/-- A status signal of the selected drive at `NOW`; false with no drive selected (R92, R97). -/
def selectedSignal (s : State) (g : DriveView → Signal) : Bool :=
  match s.driveSel with
  | some d => driveSignal s d g s.now
  | none   => false

/-- The earliest entry at or after `t` of a list of times. -/
def firstFrom (t : Nat) : List Nat → Option Nat
  | []      => none
  | e :: es =>
    match firstFrom t es with
    | none   => if t ≤ e then some e else none
    | some f => if t ≤ e ∧ e < f then some e else some f

/-- Transition `n` of a free flux stream: the one before it, one tick, and the gap. -/
def fluxTime (k : Nat) : Nat → Option Nat
  | 0     => Config.fluxGap k 0
  | n + 1 => (fluxTime k n).bind fun e => (Config.fluxGap k (n + 1)).map fun g => e + 1 + g

/-- The earliest transition at or after `t` of free flux stream `k`, sought from transition `n` on, which does not lie
before time `c`. Transitions rise, so `t + 1` of them reach `t`. -/
def seekFree (k t : Nat) : (fuel n c : Nat) → Option Nat
  | 0, _, _        => none
  | fuel + 1, n, c =>
    match Config.fluxGap k n with
    | none   => none
    | some g => if t ≤ c + g then some (c + g) else seekFree k t fuel (n + 1) (c + g + 1)

/-- The earliest transition of a flux stream at or after `t`. -/
def Flux.next (f : Flux) (t : Nat) : Option Nat :=
  match f with
  | .listed edges => firstFrom t edges
  | .free k       => seekFree k t (t + 1) 0 0

/-- `NextTransition(DRIVE_SEL, t)` (R38): the earliest flux transition of the selected drive at or after `t`; none with
no drive selected (R66). -/
def nextTransition (s : State) (t : Nat) : Option Nat :=
  match s.driveSel with
  | none   => none
  | some d =>
    match viewOf s d with
    | some v => v.edges.next t
    | none   => none

/-! ### Outputs (R40) -/

/-- An output leaves the block. -/
def emit (e : Event) (s : State) : State := { s with history := e :: s.history }

/-- A flux stream after its drive was sent a command: a free one is another free one. -/
def Flux.react (t : Nat) (dir step : Bool) : Flux → Flux
  | .listed edges => .listed edges
  | .free k       => .free (Config.fluxAfterCommand k t dir step)

/-- A status signal after its drive was sent a command: a free one is another free one. -/
def Signal.react (t : Nat) (dir step : Bool) : Signal → Signal
  | .toggling init toggles => .toggling init toggles
  | .free k                => .free (Config.signalAfterCommand k t dir step)

/-- What a drive shows after a command no view was prepared for. -/
def DriveView.react (t : Nat) (dir step : Bool) (v : DriveView) : DriveView where
  edges   := v.edges.react t dir step
  ready   := v.ready.react t dir step
  track0  := v.track0.react t dir step
  index   := v.index.react t dir step
  present := v.present.react t dir step
  wprot   := v.wprot.react t dir step

/-- The drive has taken a command (R40, log entry 8): it shows the next of its prepared views, or, with none left, what the
free values of Config make of the one it shows. -/
def Drive.react (t : Nat) (dir step : Bool) (d : Drive) : Drive :=
  match d.later with
  | []      => { view := d.view.react t dir step, later := [] }
  | v :: vs => { view := v, later := vs }

/-- `DriveCmd(DRIVE_SEL, dir, step)`: one output event, and nothing at all with no drive selected (R40, R93). -/
def driveCmd (dir step : Bool) (s : State) : State :=
  match s.driveSel with
  | none   => s
  | some d => emit (.driveCmd s.now d dir step) { s with drives := s.drives.modify d.val (Drive.react s.now dir step) }

/-! ### Holding and resuming the host (R100, R102, R103) -/

/-- `stall(op)` (R102): the wait gate closes on the host's access. -/
def stall (op : HeldOp) (s : State) : State := { s with gate := .blocked op }

/-- The resume (R103): a held `RD_DATA` completes with the byte `DATA_SR` now holds and marks it consumed (R100); a held
`WR_CONTROL`, whose effects were in place when it was issued, just completes. With the gate open nothing
happens. -/
def resume (s : State) : State :=
  match s.gate with
  | .opened             => s
  | .blocked .rdData    => emit (.answer s.now 2 s.dataSr) { s with consumed := true, gate := .opened }
  | .blocked .wrControl => emit (.release s.now) { s with gate := .opened }

end Sys2Proof.Machine
end

