-- ==== Sys2Proof/Machine/Flags.lean ====
section
/-! DEFINITION. Flag and check-sum computations: `CONSUMED` (rules R22, R78), `OVERRUN` (R23, R77), `CRC` (R18, R76) and
the status bits the host reads (R49, R51). -/

namespace Sys2Proof.Machine

/-- `CRC_POLY`, the polynomial of CRC-CCITT (R6). -/
def crcPoly : CrcWord := 0x1021

/-- `CRC_STEP` as a function of the register and the data bit (R76): the register shifts left, and the polynomial is
added when its old top bit differs from the data bit. -/
def crcNext (c : CrcWord) (d : Bool) : CrcWord :=
  (c <<< 1) ^^^ (if xor (c.getLsbD 15) d then crcPoly else 0)

/-- `CONSUMED <- 0`, a fresh byte stands in `DATA_SR` (R78). -/
def announce (s : State) : State := { s with consumed := false }

/-- `if CONSUMED = 0 then OVERRUN <- 1`, before the byte is overwritten (R77). -/
def markOverrun (s : State) : State := { s with overrun := s.overrun || !s.consumed }

/-- The byte of a control/status read (R92). -/
def statusOf (s : State) : Byte :=
  statusByte s.cfg.statusFillC (selectedSignal s (·.ready)) (selectedSignal s (·.track0)) s.crcErr

/-- The byte of a drive-select read (R97). -/
def drvstatOf (s : State) : Byte :=
  statusByte s.cfg.statusFillD (selectedSignal s (·.index))
    (polarize s.cfg.polPresent (selectedSignal s (·.present)))
    (polarize s.cfg.polWprot (selectedSignal s (·.wprot)))

end Sys2Proof.Machine
end

