-- ==== Sys2Proof/Machine/Pll.lean ====
section
/-! DEFINITION. The bit separator (spec/40_pll.md): `SEP`. -/

namespace Sys2Proof.Machine

/-- The half-bit recovered from the window that starts at `c`, and the start of the next window (R61): one query of the
Medium Source, from the start of the window. An edge in `[c, c + H)` gives 1 and re-anchors the clock on itself;
otherwise 0, and the clock runs on by `H`. -/
def sepAt (s : State) (c : Nat) : Bool × Nat :=
  match nextTransition s c with
  | none   => (false, c + s.cfg.halfBit)
  | some e =>
    if e < c + s.cfg.halfBit then (true, e + (s.cfg.halfBit - centre s.cfg))
    else (false, c + s.cfg.halfBit)

/-- `SEP` (R61): the half-bit of the window at `PLL_TIME`, which moves to the next window. -/
def sep (s : State) : Bool × State :=
  ((sepAt s s.pllTime).1, { s with pllTime := (sepAt s s.pllTime).2 })

/-- `SEP` executed on its own; the half-bit it returns goes to the result latch. -/
def execSep (s : State) : Host.Outcome State Fault Refusal :=
  .next { (sep s).2 with microBit := (sep s).1 }

end Sys2Proof.Machine
end

