-- ==== Sys2Proof/Machine/Assembler.lean ====
section
/-! DEFINITION. The byte assembler and CRC generator (spec/42_byte_assembler.md): `SHIFT_CELL`, `CRC_STEP`,
`BYTE_READY`, `TICK_BYTE`. -/

namespace Sys2Proof.Machine

/-- One bit enters an 8-bit accumulator at bit 0; the old bit 7 is lost (R75, R131). -/
def shiftIn (x : Byte) (b : Bool) : Byte := (x <<< 1) ||| (BitVec.ofBool b).setWidth 8

/-- `CRC_STEP(d)` on the `CRC` register (R76). -/
def crcStep (d : Bool) (s : State) : State := { s with crc := crcNext s.crc d }

/-- `SHIFT_CELL(crc_allowed)` (R75): the clock half-bit, then the data half-bit. Returns the data half-bit. -/
def shiftCell (crcAllowed : Bool) (s : State) : Bool × State :=
  let ck := sep s
  let d  := sep ck.2
  let s' := { d.2 with clkSr := shiftIn d.2.clkSr ck.1, dataSr := shiftIn d.2.dataSr d.1 }
  (d.1, if crcAllowed && s'.crcEn && !s'.crcOut then crcStep d.1 s' else s')

/-- `repeat n times: _ := SHIFT_CELL(crc_allowed)` (R72, R77). -/
def shiftCells (crcAllowed : Bool) : Nat → State → State
  | 0, s     => s
  | n + 1, s => shiftCells crcAllowed n (shiftCell crcAllowed s).2

/-- `BYTE_READY` (R78): the byte is announced, and a held access completes (R103). The spec places the completion after the
calling callback; nothing a callback does after `BYTE_READY` can tell (DEDUCED, log entry 9). -/
def byteReady (s : State) : State := resume (announce s)

/-- `TICK_BYTE` (R77). -/
def tickByte (s : State) : State :=
  if s.mode = .reading ∧ s.syncState = .locked then
    let s' := byteReady (shiftCells true cellsPerByte (markOverrun s))
    arm .byte (s'.pllTime - s'.now) s'
  else s

/-- `SHIFT_CELL` executed on its own; the data half-bit it returns goes to the result latch. -/
def execShiftCell (crcAllowed : Bool) (s : State) : Host.Outcome State Fault Refusal :=
  .next { (shiftCell crcAllowed s).2 with microBit := (shiftCell crcAllowed s).1 }

/-- `CRC_STEP` (R76). -/
def execCrcStep (d : Bool) (s : State) : Host.Outcome State Fault Refusal := .next (crcStep d s)

/-- `BYTE_READY` (R78). -/
def execByteReady (s : State) : Host.Outcome State Fault Refusal := .next (byteReady s)

/-- `TICK_BYTE` (R77). -/
def execTickByte (s : State) : Host.Outcome State Fault Refusal := .next (tickByte s)

end Sys2Proof.Machine
end

