-- ==== Sys2Proof/Machine/Synchronizer.lean ====
section
/-! DEFINITION. The synchronizer and address-mark detector (spec/41_synchronizer.md): `TICK_LOCK`, `SYNC_RESET`. -/

namespace Sys2Proof.Machine

/-- `SYNC_THRESHOLD` (R6). -/
def syncThreshold : Nat := 29

/-- `SYNC_RESET` (R74). -/
def syncReset (s : State) : State :=
  { s with syncState := .searchingSync, syncCnt := 0, clkSr := 0, dataSr := 0 }

/-- The rearm of the search: the next tick comes one bit cell after the separator's clock (R69, R71). -/
def rearmLock (s : State) : State := arm .lock ((s.pllTime + lockPeriod s.cfg) - s.now) s

/-- The lock transition (R70); `b` is the data half-bit of the winning pair. -/
def lockFound (b : Bool) (s : State) : State :=
  let s' := if b then (sep s).2 else s
  { s' with clkSr := 0, dataSr := 0, syncState := .searchingMark }

/-- `TICK_LOCK` in `SEARCHING_SYNC` (R69). -/
def searchSync (s : State) : State :=
  let a := sep s
  let b := sep a.2
  if a.1 = b.1 then rearmLock { b.2 with syncCnt := 0 }
  else if b.2.syncCnt + 1 = syncThreshold then
    rearmLock (lockFound b.1 { b.2 with syncCnt := b.2.syncCnt + 1 })
  else rearmLock { b.2 with syncCnt := b.2.syncCnt + 1 }

/-- Mark found (R72): the seven remaining cells of the byte, the byte timer, `LOCKED`, byte-ready. -/
def markFound (s : State) : State :=
  let s' := shiftCells false (cellsPerByte - 1) s
  byteReady { disarm .lock (arm .byte (s'.pllTime - s'.now) s') with syncState := .locked }

/-- `TICK_LOCK` in `SEARCHING_MARK` (R71). -/
def searchMark (s : State) : State :=
  let d := shiftCell false s
  if d.1 then markFound d.2 else rearmLock d.2

/-- `TICK_LOCK` (R68). -/
def tickLock (s : State) : State :=
  if s.mode = .reading then
    match s.syncState with
    | .searchingSync => searchSync s
    | .searchingMark => searchMark s
    | .locked        => s
  else s

/-- `TICK_LOCK` (R68). -/
def execTickLock (s : State) : Host.Outcome State Fault Refusal := .next (tickLock s)

/-- `SYNC_RESET` (R74). -/
def execSyncReset (s : State) : Host.Outcome State Fault Refusal := .next (syncReset s)

end Sys2Proof.Machine
end

