-- ==== Sys2Proof/Machine/Scheduler.lean ====
section
/-! DEFINITION. The timing scheduler (spec/43_scheduler.md): `ARM`, `DISARM`, the two idle callbacks, `DELIVER`. -/

namespace Sys2Proof.Machine

/-- `TICK_TIMEOUT` (R87): no effect. -/
def tickTimeout (s : State) : State := s

/-- `TICK_AUX` (R88): no effect. -/
def tickAux (s : State) : State := s

/-- The callback of timer `k` (R82). -/
def callback (k : TimerId) (s : State) : State :=
  match k with
  | .timeout => tickTimeout s
  | .lock    => tickLock s
  | .byte    => tickByte s
  | .aux     => tickAux s

/-- `DELIVER` (R83): the earliest armed timer fires, is disarmed, and its callback runs at its own fire time. With no timer
armed the scheduler has no step and nothing happens (R90; DESIGN CHOICE, log entry 14). -/
def deliver (s : State) : State :=
  match earliest s.timers with
  | none        => s
  | some (k, f) => callback k (disarm k { s with now := max s.now f })

/-- `ARM` (R80). -/
def execArm (k : TimerId) (delay : Nat) (s : State) : Host.Outcome State Fault Refusal := .next (arm k delay s)

/-- `DISARM` (R81). -/
def execDisarm (k : TimerId) (s : State) : Host.Outcome State Fault Refusal := .next (disarm k s)

/-- `TICK_TIMEOUT` (R87). -/
def execTickTimeout (s : State) : Host.Outcome State Fault Refusal := .next (tickTimeout s)

/-- `TICK_AUX` (R88). -/
def execTickAux (s : State) : Host.Outcome State Fault Refusal := .next (tickAux s)

/-- `DELIVER` (R83). -/
def execDeliver (s : State) : Host.Outcome State Fault Refusal := .next (deliver s)

end Sys2Proof.Machine
end

