-- ==== Sys2Proof/Machine/Handshake.lean ====
section
/-! DEFINITION. The host handshake (spec/44_host_handshake.md): the six port accesses, `READ_ON` and `READ_OFF`. That a held
host issues no access is the step's affair (rule R89, log entry 18), so no meaning here tests the gate. -/

namespace Sys2Proof.Machine

/-- `READ_ON` (R94). -/
def readOn (s : State) : State :=
  let s' := { syncReset { s with mode := .reading } with pllTime := s.now }
  stall .wrControl (arm .timeout s.cfg.timeoutPeriod (arm .lock (lockPeriod s.cfg) s'))

/-- `READ_OFF` (R96). -/
def readOff (s : State) : State :=
  { syncReset (disarm .timeout (disarm .byte (disarm .lock { s with mode := .idle }))) with consumed := true }

/-- What a control write does whatever its `RDEN`: direction and step are forwarded, `CRC_EN` is latched (R93). -/
def latch (v : Byte) (s : State) : State :=
  { driveCmd (ctlDir v) (ctlStep v) s with crcEn := ctlCrcen v }

/-- The body of `WR_CONTROL` for a byte that is not refused (R93): read-enable acts on its edges, after the rest of the
byte has taken effect. -/
def controlWrite (v : Byte) (s : State) : State :=
  match s.mode with
  | .idle    => if ctlRden v then readOn (latch v s) else latch v s
  | .reading => if ctlRden v then latch v s else readOff (latch v s)
  | .writing => latch v s

/-- `DRIVE_SEL` after a write of `v` to the drive-select port (R98). -/
def selection (v : Byte) (s : State) : Option (Fin 8) :=
  if selSel v ∧ (selDrv v).val < s.cfg.nDrives ∧ driveSignal s (selDrv v) (·.ready) s.now then some (selDrv v)
  else none

/-- `RD_DATA` (R99): an unread byte is returned at once, otherwise the host is held. -/
def readData (s : State) : State :=
  if s.consumed then stall .rdData s
  else emit (.answer s.now 2 s.dataSr) { s with consumed := true }

/-- `RD_STATUS` (R92). -/
def execRdStatus (s : State) : Host.Outcome State Fault Refusal :=
  .next (emit (.answer s.now 0 (statusOf s)) s)

/-- `WR_CONTROL(v)` (R93). A byte with bit 3 set is refused (R95). -/
def execWrControl (v : Byte) (s : State) : Host.Outcome State Fault Refusal :=
  if ctlWren v then .refused .writeEnable else .next (controlWrite v s)

/-- `WR_CONTROL.WREN` (R95): refused, "whatever its other bits are: no state change is specified". -/
def execWrControlWren (_v : Byte) (_s : State) : Host.Outcome State Fault Refusal := .refused .writeEnable

/-- `RD_DRVSTAT` (R97). -/
def execRdDrvstat (s : State) : Host.Outcome State Fault Refusal :=
  .next (emit (.answer s.now 1 (drvstatOf s)) s)

/-- `WR_DRVSEL(v)` (R98). -/
def execWrDrvsel (v : Byte) (s : State) : Host.Outcome State Fault Refusal :=
  .next { s with driveSel := selection v s }

/-- `RD_DATA` (R99). -/
def execRdData (s : State) : Host.Outcome State Fault Refusal := .next (readData s)

/-- `WR_DATA(v)` (R101): refused, "the source specifies no effect and forbids inferring one". -/
def execWrData (_v : Byte) (_s : State) : Host.Outcome State Fault Refusal := .refused .dataPortWrite

/-- `NOT_DECODED` (R104): not the block's access, "no state changes"; what a read then returns is the platform's, and
the block puts nothing out (log entry 13). -/
def execNotDecoded (_w : Bool) (s : State) : Host.Outcome State Fault Refusal := .next s

/-- `READ_ON` (R94). -/
def execReadOn (s : State) : Host.Outcome State Fault Refusal := .next (readOn s)

/-- `READ_OFF` (R96). -/
def execReadOff (s : State) : Host.Outcome State Fault Refusal := .next (readOff s)

end Sys2Proof.Machine
end

