-- ==== Sys2Proof/Machine/Reset.lean ====
section
/-! DEFINITION. The reset input (spec/70_reset_and_hazards.md): `RESET`. -/

namespace Sys2Proof.Machine

/-- `RESET` (R118): every state element but `NOW` takes its reset value; a held access is abandoned and returns nothing. -/
def resetBlock (s : State) : State :=
  { s with
    mode := .idle, syncState := .searchingSync, syncCnt := 0, clkSr := 0, dataSr := 0, crc := 0,
    crcEn := false, crcOut := false, crcErr := false, driveSel := none, consumed := true, overrun := false,
    pllTime := 0, timers := ⟨none, none, none, none⟩, gate := .opened }

/-- `RESET` (R118). -/
def execReset (s : State) : Host.Outcome State Fault Refusal := .next (resetBlock s)

end Sys2Proof.Machine
end

