-- ==== Sys2Proof/Machine/Dispatch.lean ====
section
/-! DEFINITION. The meaning of every operation, one arm per constructor of `Instr`. -/

namespace Sys2Proof.Machine

def exec (i : Instr) (s : State) : Host.Outcome State Fault Refusal :=
  match i with
  | .rdStatus => Sys2Proof.Machine.execRdStatus s
  | .wrControl v => Sys2Proof.Machine.execWrControl v s
  | .wrControlWren v => Sys2Proof.Machine.execWrControlWren v s
  | .rdDrvstat => Sys2Proof.Machine.execRdDrvstat s
  | .wrDrvsel v => Sys2Proof.Machine.execWrDrvsel v s
  | .rdData => Sys2Proof.Machine.execRdData s
  | .wrData v => Sys2Proof.Machine.execWrData v s
  | .notDecoded w => Sys2Proof.Machine.execNotDecoded w s
  | .tickTimeout => Sys2Proof.Machine.execTickTimeout s
  | .tickLock => Sys2Proof.Machine.execTickLock s
  | .tickByte => Sys2Proof.Machine.execTickByte s
  | .tickAux => Sys2Proof.Machine.execTickAux s
  | .reset => Sys2Proof.Machine.execReset s
  | .sep => Sys2Proof.Machine.execSep s
  | .shiftCell crcAllowed => Sys2Proof.Machine.execShiftCell crcAllowed s
  | .crcStep d => Sys2Proof.Machine.execCrcStep d s
  | .byteReady => Sys2Proof.Machine.execByteReady s
  | .readOn => Sys2Proof.Machine.execReadOn s
  | .readOff => Sys2Proof.Machine.execReadOff s
  | .syncReset => Sys2Proof.Machine.execSyncReset s
  | .arm k delay => Sys2Proof.Machine.execArm k delay s
  | .disarm k => Sys2Proof.Machine.execDisarm k s
  | .deliver => Sys2Proof.Machine.execDeliver s

end Sys2Proof.Machine
end

