-- ==== Sys2Proof/WellFormed.lean ====
section
/-! DEFINITION. Which terms of `Instr` stand for words of the spec's encodings (rules R48, R58): the two control
writes are told apart by bit 3 of the byte they carry, every other operand is free. -/

namespace Sys2Proof

/-- An operation is well formed when its operand lies in its own row of rule R58: `WR_CONTROL` carries a byte with
bit 3 clear, `WR_CONTROL.WREN` one with bit 3 set. -/
def Instr.wf : Instr → Bool
  | .wrControl v     => !v.getLsbD 3
  | .wrControlWren v => v.getLsbD 3
  | .rdStatus | .rdDrvstat | .wrDrvsel _ | .rdData | .wrData _ | .notDecoded _ => true
  | .tickTimeout | .tickLock | .tickByte | .tickAux | .reset => true
  | .sep | .shiftCell _ | .crcStep _ | .byteReady | .readOn | .readOff | .syncReset => true
  | .arm _ _ | .disarm _ | .deliver => true

end Sys2Proof
end

