-- ==== Sys2Proof/Decode.lean ====
section
/-! DEFINITION. The decoder, total on any bytes, and after it the encoder, both written from rules R47 to R53 and
R58: a `BUS` word is two bytes, an `EV` code one byte, each low byte first (DESIGN CHOICE, log entry 15).
Micro-operations have no encoding. -/

namespace Sys2Proof

/-- Why the decoder rejects a list of bytes. -/
inductive DecodeError where
  /-- neither one byte (`EV`) nor two bytes (`BUS`) -/
  | wrongLength (n : Nat)
  /-- a two-byte word with a bit above bit 10, the highest of format `BUS` (R47) -/
  | busWordTooWide (hi : Byte)
  /-- a one-byte code with a bit above bit 2, the highest of format `EV` (R53) -/
  | evCodeTooWide (b : Byte)
  /-- the event codes 5 to 7, which rule R53 gives to no event -/
  | unusedEvent (c : EvCode)
deriving DecidableEq, Repr

/-! ### Fields of the `BUS` word (R47) -/

/-- `W`, bit 10: 1 = write. -/
def busW (w : BusWord) : Bool := w.getLsbD 10

/-- `PORT`, bits 9:8. -/
def busPort (w : BusWord) : BitVec 2 := w.extractLsb' 8 2

/-- `DATA`, bits 7:0. -/
def busData (w : BusWord) : Byte := w.extractLsb' 0 8

/-- The `BUS` word with these fields. -/
def busWord (w : Bool) (port : BitVec 2) (data : Byte) : BusWord :=
  BitVec.ofBool w ++ port ++ data

/-! ### Decoding -/

/-- Every 11-bit `BUS` word falls in exactly one row (R58). -/
def decodeBus (w : BusWord) : Instr :=
  if busPort w = 0 then
    if busW w then
      if (busData w).getLsbD 3 then .wrControlWren (busData w) else .wrControl (busData w)
    else .rdStatus
  else if busPort w = 1 then
    if busW w then .wrDrvsel (busData w) else .rdDrvstat
  else if busPort w = 2 then
    if busW w then .wrData (busData w) else .rdData
  else .notDecoded (busW w)

/-- The event codes of rule R53. -/
def decodeEv (c : EvCode) : Except DecodeError Instr :=
  if c = 0 then .ok .tickTimeout
  else if c = 1 then .ok .tickLock
  else if c = 2 then .ok .tickByte
  else if c = 3 then .ok .tickAux
  else if c = 4 then .ok .reset
  else .error (.unusedEvent c)

/-- The decoder: one byte is an `EV` code, two bytes a `BUS` word, low byte first. -/
def decode : List Byte → Except DecodeError Instr
  | [b] =>
    if b.extractLsb' 3 5 = 0 then decodeEv (b.extractLsb' 0 3) else .error (.evCodeTooWide b)
  | [lo, hi] =>
    if hi.extractLsb' 3 5 = 0 then .ok (decodeBus (hi.extractLsb' 0 3 ++ lo))
    else .error (.busWordTooWide hi)
  | bs => .error (.wrongLength bs.length)

/-! ### Encoding -/

/-- The two bytes of a `BUS` word. -/
def busBytes (w : BusWord) : List Byte := [w.extractLsb' 0 8, (w.extractLsb' 8 3).setWidth 8]

/-- The byte of an `EV` code. -/
def evBytes (c : EvCode) : List Byte := [c.setWidth 8]

/-- The `BUS` word of a host operation; on a read and on an undecoded access the ignored `DATA` field is 0, as in the
spec's listings (R47). -/
def encodeBus : Instr → Option BusWord
  | .rdStatus        => some (busWord false 0 0)
  | .wrControl v     => some (busWord true 0 v)
  | .wrControlWren v => some (busWord true 0 v)
  | .rdDrvstat       => some (busWord false 1 0)
  | .wrDrvsel v      => some (busWord true 1 v)
  | .rdData          => some (busWord false 2 0)
  | .wrData v        => some (busWord true 2 v)
  | .notDecoded w    => some (busWord w 3 0)
  | .tickTimeout | .tickLock | .tickByte | .tickAux | .reset => none
  | .sep | .shiftCell _ | .crcStep _ | .byteReady | .readOn | .readOff | .syncReset => none
  | .arm _ _ | .disarm _ | .deliver => none

/-- The `EV` code of an event (R53). -/
def encodeEv : Instr → Option EvCode
  | .tickTimeout => some 0
  | .tickLock    => some 1
  | .tickByte    => some 2
  | .tickAux     => some 3
  | .reset       => some 4
  | .rdStatus | .wrControl _ | .wrControlWren _ | .rdDrvstat | .wrDrvsel _ | .rdData | .wrData _ => none
  | .notDecoded _ => none
  | .sep | .shiftCell _ | .crcStep _ | .byteReady | .readOn | .readOff | .syncReset => none
  | .arm _ _ | .disarm _ | .deliver => none

/-- The bytes of an operation; none for a micro-operation, which no rule encodes. -/
def encode (i : Instr) : Option (List Byte) :=
  match encodeBus i, encodeEv i with
  | some w, _    => some (busBytes w)
  | none, some c => some (evBytes c)
  | none, none   => none

/-- The instruction the decoder reads from a word numbered as spec/opcode_table.json numbers it: a word of up to 8 bits
is laid out as one byte (`EV`), a wider one of up to 16 bits as two bytes, low byte first (`BUS`); the ten rows of
no bits are never decoded. -/
def decodeTableWord (nbits w : Nat) : Option Instr :=
  if nbits = 0 then none
  else if 65536 ≤ w then none
  else if nbits ≤ 8 then
    if 256 ≤ w then none else (decode [BitVec.ofNat 8 w]).toOption
  else if nbits ≤ 16 then (decode [BitVec.ofNat 8 w, BitVec.ofNat 8 (w / 256)]).toOption
  else none

/-! ### The opcode table as data -/

/-- One row of spec/opcode_table.json: its width in bits, its mask and its match. -/
structure Row where
  width : Nat
  mask  : Nat
  value : Nat
deriving DecidableEq, Repr

/-- The row of an operation, none for the ten micro-operations (R58, R53). -/
def Instr.row : Instr → Option Row
  | .rdStatus        => some ⟨11, 0x700, 0x000⟩
  | .wrControl _     => some ⟨11, 0x708, 0x400⟩
  | .wrControlWren _ => some ⟨11, 0x708, 0x408⟩
  | .rdDrvstat       => some ⟨11, 0x700, 0x100⟩
  | .wrDrvsel _      => some ⟨11, 0x700, 0x500⟩
  | .rdData          => some ⟨11, 0x700, 0x200⟩
  | .wrData _        => some ⟨11, 0x700, 0x600⟩
  | .notDecoded _    => some ⟨11, 0x300, 0x300⟩
  | .tickTimeout     => some ⟨3, 0x7, 0x0⟩
  | .tickLock        => some ⟨3, 0x7, 0x1⟩
  | .tickByte        => some ⟨3, 0x7, 0x2⟩
  | .tickAux         => some ⟨3, 0x7, 0x3⟩
  | .reset           => some ⟨3, 0x7, 0x4⟩
  | .sep | .shiftCell _ | .crcStep _ | .byteReady | .readOn | .readOff | .syncReset => none
  | .arm _ _ | .disarm _ | .deliver => none

end Sys2Proof
end

