-- ==== Sys2Proof/Machine/Fetch.lean ====
section
/-! DEFINITION. Which agent moves next (spec/43_scheduler.md rule R89), what the next input's bytes are, and how an
instruction word is placed so that the next step runs it. -/

namespace Sys2Proof.Machine

/-! ### The pending inputs -/

/-- The virtual time an input is due at. -/
def Input.time : Input → Nat
  | .access t _ _ _ => t
  | .reset t _      => t

/-- The bytes an input presents to the decoder: the `BUS` word of a host access (R47), event code 4 for the reset input
(R53). -/
def Input.bytes (c : Config) : Input → List Byte
  | .access _ w a d => busBytes (busWord w (portOf c a) d)
  | .reset _ _      => evBytes 4

/-- The first reset among the inputs, and the inputs without it. -/
def takeReset : List Input → Option (Input × List Input)
  | []                     => none
  | .reset t e :: is       => some (.reset t e, is)
  | .access t w a d :: is  => (takeReset is).map fun p => (p.1, .access t w a d :: p.2)

/-- The input that comes next, and the ones after it. While the gate is closed the host has no step, and only the reset
input can act (R89, R119; DEDUCED, log entry 3). -/
def nextInput (s : State) : Option (Input × List Input) :=
  match s.gate with
  | .opened =>
    match s.inputs with
    | []      => none
    | i :: is => some (i, is)
  | .blocked _ => takeReset s.inputs

/-- Whether a timer goes before an input due at time `t`: every timer due at or before `t` does (R43), but for a reset
marked `early`, which goes before the timers of its own time (U18: both orders are admitted). -/
def timerFirst (tm : Timers) (t : Nat) (i : Input) : Bool :=
  match earliest tm, i with
  | none, _                  => false
  | some (_, f), .reset _ true => decide (f < t)
  | some (_, f), _           => decide (f ≤ t)

/-- The next input, if it is an input's turn: its bytes, and the state it acts on, with `NOW` advanced to its time (R91).
An input whose time has passed acts at `NOW` (DESIGN CHOICE, log entry 2). None means the scheduler moves. -/
def fetch (s : State) : Option (List Byte × State) :=
  match nextInput s with
  | none         => none
  | some (i, is) =>
    if timerFirst s.timers (max s.now i.time) i then none
    else some (i.bytes s.cfg, { s with now := max s.now i.time, inputs := is })

/-! ### Placing an instruction word where the next step takes it from -/

/-- The timers without those due at or before `t`. -/
def dropDue (t : Nat) (tm : Timers) : Timers :=
  let keep (f : Option Nat) : Option Nat := f.filter fun u => decide (t < u)
  ⟨keep tm.timeout, keep tm.lock, keep tm.byte, keep tm.aux⟩

/-- A reset due at or before `t` no longer goes before the timers of its time. -/
def Input.deferPast (t : Nat) : Input → Input
  | .reset u e      => .reset u (e && decide (t < u))
  | .access u w a d => .access u w a d

/-- The host issues this `BUS` word now: the gate is open, no timer is due before it. -/
def placeBus (w : BusWord) (s : State) : State :=
  { s with
    gate   := .opened
    timers := dropDue s.now s.timers
    inputs := .access s.now (busW w) (s.cfg.portBase + (busPort w).toNat) (busData w) :: s.inputs }

/-- Timer `k` is the one that fires next, now. -/
def placeTick (k : TimerId) (s : State) : State :=
  { s with
    timers := (dropDue s.now s.timers).set k (some s.now)
    inputs := s.inputs.map (Input.deferPast s.now) }

/-- The event with this code comes next, now; the codes 5 to 7 are no event. -/
def placeEv (c : EvCode) (s : State) : State :=
  if c = 0 then placeTick .timeout s
  else if c = 1 then placeTick .lock s
  else if c = 2 then placeTick .byte s
  else if c = 3 then placeTick .aux s
  else if c = 4 then
    { s with timers := dropDue s.now s.timers, inputs := .reset s.now true :: s.inputs }
  else s

/-- A word of up to 8 bits is an event code, a wider one of up to 16 bits a `BUS` word; the operations of no bits
are placed nowhere. -/
def placeWord (s : State) (nbits w : Nat) : State :=
  if nbits = 0 then s
  else if nbits ≤ 8 then placeEv (BitVec.ofNat 3 w) s
  else placeBus (BitVec.ofNat 11 w) s

end Sys2Proof.Machine
end

