-- ==== Sys2Proof/Machine/Step.lean ====
section
/-! DEFINITION. One atomic step of the whole machine (rules R42, R89): the next input is decoded and executed, or, when
it is the scheduler's turn, a timer is delivered. -/

namespace Sys2Proof.Machine

/-- The step. -/
def step (s : State) : Host.Outcome State Fault Refusal :=
  match fetch s with
  | none => exec .deliver s
  | some (bs, s') =>
    match decode bs with
    | .ok i    => exec i s'
    | .error _ => .refused .noSuchEncoding

/-- The state with this instruction placed so that the next step runs exactly it (log entry 16). -/
def State.withFetchWord (s : State) (nbits w : Nat) : State := placeWord s nbits w

end Sys2Proof.Machine
end

