-- ==== Sys2Proof/Safety.lean ====
section
/-! DEFINITION. What holds of a state in a proper run (spec/10_state.md rule R31 and the ranges of rules R7, R15,
R17, R19, R33), in the terms the statements use. -/

namespace Sys2Proof

/-- The place of a timer in the order ties are broken by (R84). -/
def TimerId.rank : TimerId → Nat
  | .timeout => 0
  | .lock    => 1
  | .byte    => 2
  | .aux     => 3

end Sys2Proof

namespace Sys2Proof.Machine

/-- A list of times is a stream: strictly rising (R33, "ordered sequence of transition timestamps"). -/
def risingTimes (l : List Nat) : Prop := l.Pairwise (· < ·)

/-- `e` is the time of a transition of this flux stream. -/
def Flux.has (f : Flux) (e : Nat) : Prop :=
  match f with
  | .listed edges => e ∈ edges
  | .free k       => ∃ n, fluxTime k n = some e

/-- A flux stream rises strictly: a listed one in the order of its list, a free one from each transition to the next. -/
def Flux.rising (f : Flux) : Prop :=
  match f with
  | .listed edges => risingTimes edges
  | .free k       => ∀ n e e', fluxTime k n = some e → fluxTime k (n + 1) = some e' → e < e'

/-- Every drive's transitions, now and after every prepared view to come, are a stream (R33). -/
def mediumWf (ds : List Drive) : Prop :=
  ∀ d ∈ ds, d.view.edges.rising ∧ ∀ v ∈ d.later, v.edges.rising

/-- The callback of a timer as an operation (R82). -/
def tickOf : TimerId → Instr
  | .timeout => .tickTimeout
  | .lock    => .tickLock
  | .byte    => .tickByte
  | .aux     => .tickAux

/-- The place of a Synchronizer state in its graph (R67). -/
def SyncState.rank : SyncState → Nat
  | .searchingSync => 0
  | .searchingMark => 1
  | .locked        => 2

/-- An access of the host, as against the reset input. -/
def Input.isAccess : Input → Bool
  | .access _ _ _ _ => true
  | .reset _ _      => false

/-- The invariant: rule R31, item by item, with the ranges of the state elements and the two timer equations the
rearming rules keep (R69, R71, R72, R77, R94). -/
structure Inv (s : State) : Prop where
  /-- the parameters are within rule R7's constraints -/
  params      : s.cfg.wf = true
  /-- R31 item 1 -/
  notWriting  : s.mode ≠ .writing
  /-- R31 item 2 -/
  crcFlags    : s.crcOut = false ∧ s.crcErr = false
  /-- R31 item 3 -/
  idle        : s.mode = .idle →
                  s.syncState = .searchingSync ∧ s.syncCnt = 0 ∧ s.clkSr = 0 ∧ s.dataSr = 0 ∧ s.consumed = true ∧
                  s.timers.timeout = none ∧ s.timers.lock = none ∧ s.timers.byte = none
  /-- R31 item 4 -/
  unread      : s.consumed = false → s.mode = .reading ∧ s.syncState = .locked
  /-- R31 item 5 while searching: `T_LOCK` is armed one bit cell after the separator's clock -/
  searching   : s.mode = .reading → s.syncState ≠ .locked →
                  s.timers.lock = some (s.pllTime + 2 * s.cfg.halfBit) ∧ s.timers.byte = none
  /-- R31 item 5 when locked: `T_BYTE` is armed at the separator's clock -/
  locked      : s.mode = .reading → s.syncState = .locked →
                  s.timers.byte = some s.pllTime ∧ s.timers.lock = none
  /-- R31 item 6 -/
  auxIdle     : s.timers.aux = none
  /-- R31 item 7 -/
  heldControl : s.gate = .blocked .wrControl → s.mode = .reading ∧ s.syncState ≠ .locked
  /-- R31 item 7 -/
  heldData    : s.gate = .blocked .rdData → s.consumed = true
  /-- R31 item 8 -/
  timersAhead : ∀ k f, s.timers.get k = some f → s.now ≤ f
  /-- R15: below the threshold while counting -/
  counting    : s.syncState = .searchingSync → s.syncCnt < 29
  /-- R15: "it stands at 29 from the lock transition" -/
  counted     : s.syncState ≠ .searchingSync → s.syncCnt = 29
  /-- R71: "`DATA_SR` stays 0x00" until the mark -/
  preamble    : s.syncState = .searchingMark → s.dataSr = 0
  /-- R98: only a fitted drive is ever selected -/
  driveFitted : ∀ d, s.driveSel = some d → d.val < s.cfg.nDrives

end Sys2Proof.Machine
end

