-- ==== Sys2Proof/Certificates/Slice0/Obligations.lean ====
section
/-! DEFINITION. The statements for the provers: the numbered rules of spec/ that say what an operation or the machine
does, over every state. A rule's points marked [decision: ...] are the spec's own choices, and a statement that formalises
such a rule rests on them as the spec does. The state carries data of the model's own beside the spec's state elements
(`cfg`, `drives`, `inputs`, `history`, `microBit`); where a statement gives them a value, that is the model's record of what
the rule says is put out or returned (log entries 8, 10, 11). -/

open Sys2Proof Sys2Proof.Machine

/-! ### Reset (R118, R119) -/

/-- R118: the value every state element takes at `RESET`; `NOW`, and all that is no state element, stays. Several of
these values are the spec's decisions D5, D25, D26, D27, D31. -/
def Obligations.ResetGivesEveryElementItsResetValue : Prop :=
  ∀ s : State, exec .reset s = .next { s with
    mode := .idle, syncState := .searchingSync, syncCnt := 0, clkSr := 0x00, dataSr := 0x00, crc := 0x0000,
    crcEn := false, crcOut := false, crcErr := false, driveSel := none, consumed := true, overrun := false,
    pllTime := 0, timers := ⟨none, none, none, none⟩, gate := .opened }

/-- R119: the state after `RESET` depends on the state before it through `NOW` alone (and through what is no state of the
block), two resets equal one, and `RESET` can come in every state: whatever the gate and the timers, a reset
raised now is the next step. No armed timer lies in the past, as in every reachable state. How a reset is raised is the
model's own: log entries 1 and 4. -/
def Obligations.ResetIsIdempotentAndAlwaysEnabled : Prop :=
  (∀ s s' : State, s.now = s'.now → s.cfg = s'.cfg → s.drives = s'.drives → s.inputs = s'.inputs →
    s.history = s'.history → s.microBit = s'.microBit → exec .reset s = exec .reset s') ∧
  (∀ s t : State, exec .reset s = .next t → exec .reset t = .next t) ∧
  (∀ (s : State) (is : List Input), (∀ k f, s.timers.get k = some f → s.now ≤ f) →
    s.inputs = .reset s.now true :: is → step s = exec .reset { s with inputs := is })

/-- spec/10_state.md section 8: the model's reset state holds the reset value of every state element but `NOW`, whose
origin no rule gives (log entry 12). -/
def Obligations.ResetStateHoldsTheResetTable : Prop :=
  let r := State.reset
  r.mode = .idle ∧ r.syncCnt = 0 ∧ r.crc = 0x0000 ∧ r.driveSel = none ∧ r.overrun = false ∧
  r.syncState = .searchingSync ∧ r.clkSr = 0x00 ∧ r.dataSr = 0x00 ∧ r.crcEn = false ∧ r.crcOut = false ∧
  r.crcErr = false ∧ r.consumed = true ∧ (∀ k, r.timers.get k = none) ∧ r.pllTime = 0 ∧ r.gate = .opened ∧
  exec .reset r = .next r

/-! ### The medium and the bit separator (R38, R61 to R63) -/

/-- R38 items 1, 2 and 4: with a fitted drive selected the query answers the nearest of its transitions at or after the
time asked from, and none only if there is none; with no drive selected it answers none. A stream is a written list or a
free one, ending or not, of which no value is known (log entry 7). -/
def Obligations.NextTransitionIsTheNearestEdge : Prop :=
  ∀ (s : State) (t : Nat),
    (s.driveSel = none → nextTransition s t = none) ∧
    ∀ d v, s.driveSel = some d → viewOf s d = some v →
      (∀ e, nextTransition s t = some e ↔ t ≤ e ∧ v.edges.has e ∧ ∀ u, v.edges.has u → t ≤ u → e ≤ u) ∧
      (nextTransition s t = none ↔ ∀ u, v.edges.has u → u < t)

/-- R61: `SEP` returns 1 and re-anchors the clock on an edge in the window `[PLL_TIME, PLL_TIME + H)`, and otherwise
returns 0 and lets the clock run on by `H`; nothing else changes. The returned bit stands in `microBit` (log
entry 11). -/
def Obligations.SepRecoversOneHalfBit : Prop :=
  ∀ s : State,
    (∀ e, nextTransition s s.pllTime = some e → e < s.pllTime + s.cfg.halfBit →
      exec .sep s = .next { s with
        pllTime := e + (s.cfg.halfBit - s.cfg.halfBit / 2), microBit := true }) ∧
    ((∀ e, nextTransition s s.pllTime = some e → s.pllTime + s.cfg.halfBit ≤ e) →
      exec .sep s = .next { s with pllTime := s.pllTime + s.cfg.halfBit, microBit := false })

/-- R63 item 4, which for one call is its first line: `n` calls of `SEP` in a row advance the clock by at least
`n * ceil(H/2)` and at most `n * (H + ceil(H/2) - 1)`. -/
def Obligations.SepClockAdvanceIsBounded : Prop :=
  ∀ (ss : Nat → State) (n : Nat), 1 ≤ (ss 0).cfg.halfBit → (∀ k, exec .sep (ss k) = .next (ss (k + 1))) →
    let h := (ss 0).cfg.halfBit
    (ss 0).pllTime + n * (h - h / 2) ≤ (ss n).pllTime ∧
    (ss n).pllTime ≤ (ss 0).pllTime + n * (h + (h - h / 2) - 1)

/-- R62, "An edge is never reported twice", over a run of calls of `SEP` in a row: once a call has returned 1 from an edge,
every later query of the run, the next one and any after it, finds later edges only. `READ_ON` (R94) sets the clock to
`NOW` and so starts a run of its own. -/
def Obligations.SepNeverReportsAnEdgeTwice : Prop :=
  ∀ (ss : Nat → State) (j k e e' : Nat), 1 ≤ (ss 0).cfg.halfBit → (∀ n, exec .sep (ss n) = .next (ss (n + 1))) →
    j < k → nextTransition (ss j) (ss j).pllTime = some e → (ss (j + 1)).microBit = true →
    nextTransition (ss k) (ss k).pllTime = some e' → e < e'

/-! ### The synchronizer (R67 to R74) -/

/-- R69 and R70: the tick of the search. An equal pair clears the counter; an unequal one counts; the one that reaches 29
realigns by a discarded half-bit when its data half-bit is 1, clears both accumulators and goes on to the mark. In
each case `T_LOCK` is armed one bit cell after the separator's clock. -/
def Obligations.SearchTickCountsUnequalPairs : Prop :=
  ∀ s : State, s.mode = .reading → s.syncState = .searchingSync →
    let a := sep s
    let b := sep a.2
    (a.1 = b.1 → exec .tickLock s = .next { b.2 with
      syncCnt := 0
      timers  := { s.timers with lock := some (s.now + (b.2.pllTime + 2 * s.cfg.halfBit - s.now)) } }) ∧
    (a.1 ≠ b.1 → s.syncCnt + 1 ≠ 29 → exec .tickLock s = .next { b.2 with
      syncCnt := s.syncCnt + 1
      timers  := { s.timers with lock := some (s.now + (b.2.pllTime + 2 * s.cfg.halfBit - s.now)) } }) ∧
    (a.1 ≠ b.1 → s.syncCnt + 1 = 29 →
      let p := if b.1 then (sep b.2).2 else b.2
      exec .tickLock s = .next { p with
        syncCnt := 29, clkSr := 0x00, dataSr := 0x00, syncState := .searchingMark
        timers  := { s.timers with lock := some (s.now + (p.pllTime + 2 * s.cfg.halfBit - s.now)) } })

/-- R71 and R72: the tick that waits for the mark takes one bit cell without a CRC step. A data half-bit 0 rearms `T_LOCK`;
a 1 takes the seven remaining cells, arms `T_BYTE` for the separator's clock, disarms `T_LOCK`, and announces the
byte in state `LOCKED`. The byte's top bit is then 1, and the CRC is as it was. -/
def Obligations.MarkTickFindsTheFirstDataOne : Prop :=
  ∀ s : State, s.mode = .reading → s.syncState = .searchingMark →
    let d := shiftCell false s
    (d.1 = false → exec .tickLock s = .next { d.2 with
      timers := { s.timers with lock := some (s.now + (d.2.pllTime + 2 * s.cfg.halfBit - s.now)) } }) ∧
    (d.1 = true →
      let q := shiftCells false 7 d.2
      ∃ t, exec .byteReady { q with
          timers    := { s.timers with byte := some (s.now + (q.pllTime - s.now)), lock := none }
          syncState := .locked } = .next t ∧
        exec .tickLock s = .next t ∧ t.dataSr.getLsbD 7 = true ∧ t.crc = s.crc)

/-- R68 and R73: outside a read, and once locked, `TICK_LOCK` does nothing. -/
def Obligations.LockTickIsIdleOutsideTheSearch : Prop :=
  ∀ s : State, s.mode ≠ .reading ∨ s.syncState = .locked → exec .tickLock s = .next s

/-- R72 and R123: at a tick of the search, which trails the separator's clock by one bit cell, the mark's byte timer is
armed for the separator's clock, and never less than `6H` ahead. -/
def Obligations.MarkIsAnnouncedAheadOfTheByteTimer : Prop :=
  ∀ s t : State, 1 ≤ s.cfg.halfBit → s.mode = .reading → s.syncState = .searchingMark →
    s.now = s.pllTime + 2 * s.cfg.halfBit → (shiftCell false s).1 = true → exec .tickLock s = .next t →
    t.timers.byte = some t.pllTime ∧ s.now + 6 * s.cfg.halfBit ≤ t.pllTime ∧ t.timers.lock = none ∧
      t.syncState = .locked

/-- R69, R70 and R129: from a fresh search, 29 ticks in a row with an unequal pair bring the lock, and no fewer do. -/
def Obligations.LockTakesTwentyNineUnequalPairs : Prop :=
  ∀ ss : Nat → State, (ss 0).mode = .reading → (ss 0).syncState = .searchingSync → (ss 0).syncCnt = 0 →
    (∀ k, k < 29 → exec .tickLock (ss k) = .next (ss (k + 1)) ∧ (sep (ss k)).1 ≠ (sep (sep (ss k)).2).1) →
    (∀ k, k < 29 → (ss k).syncState = .searchingSync ∧ (ss k).syncCnt = k) ∧
    (ss 29).syncState = .searchingMark ∧ (ss 29).syncCnt = 29 ∧ (ss 29).clkSr = 0 ∧ (ss 29).dataSr = 0

/-- R67 and R128: nothing but the host turning reading on or off, or reset, moves the Synchronizer back; in particular
nothing else leaves `LOCKED`. -/
def Obligations.SynchronizerNeverStepsBackByItself : Prop :=
  ∀ (i : Instr) (s t : State), exec i s = .next t →
    (∀ v, i ≠ .wrControl v) → i ≠ .readOn → i ≠ .readOff → i ≠ .syncReset → i ≠ .reset →
    s.syncState.rank ≤ t.syncState.rank

/-- R74: `SYNC_RESET`. The CRC "is not transient state in the source's list and is not touched". -/
def Obligations.SyncResetClearsTheTransientState : Prop :=
  ∀ s : State, exec .syncReset s = .next { s with
    syncState := .searchingSync, syncCnt := 0, clkSr := 0x00, dataSr := 0x00 }

/-! ### The byte assembler and the CRC (R75 to R79) -/

/-- R75: one bit cell. Each accumulator doubles modulo 256 and takes its half-bit at bit 0; the CRC steps with the data
half-bit only when the caller allows it, `CRC_EN` is 1 and `CRC_OUT` is 0. The returned half-bit stands in
`microBit` (log entry 11). -/
def Obligations.ShiftCellEntersOneBitCell : Prop :=
  ∀ (allowed : Bool) (s : State),
    let ck := sep s
    let d := sep ck.2
    ∃ t, exec (.crcStep d.1) s = .next t ∧
      exec (.shiftCell allowed) s = .next { d.2 with
        clkSr    := BitVec.ofNat 8 (2 * s.clkSr.toNat + ck.1.toNat)
        dataSr   := BitVec.ofNat 8 (2 * s.dataSr.toNat + d.1.toNat)
        crc      := if allowed = true ∧ s.crcEn = true ∧ s.crcOut = false then t.crc else s.crc
        microBit := d.1 }

/-- R76: "Feedback XOR with 0x1021 on top-bit mismatch, else plain shift." -/
def Obligations.CrcStepIsCrcCcitt : Prop :=
  ∀ (d : Bool) (s : State), exec (.crcStep d) s = .next { s with
    crc := if s.crc.getLsbD 15 ≠ d then (s.crc <<< 1) ^^^ 0x1021 else s.crc <<< 1 }

/-- From R76: the step is linear over GF(2) in the register and the data bit together. -/
def Obligations.CrcStepIsLinear : Prop :=
  ∀ (d d' : Bool) (s s' s'' t t' t'' : State), s''.crc = s.crc ^^^ s'.crc →
    exec (.crcStep d) s = .next t → exec (.crcStep d') s' = .next t' →
    exec (.crcStep (xor d d')) s'' = .next t'' → t''.crc = t.crc ^^^ t'.crc

/-- From R76: a register that is fed its own sixteen bits, most significant first, ends at 0x0000, the property a CRC
appended to its data is checked by. -/
def Obligations.CrcOfItsOwnBitsIsZero : Prop :=
  ∀ ss : Nat → State,
    (∀ k, k < 16 → exec (.crcStep ((ss 0).crc.getLsbD (15 - k))) (ss k) = .next (ss (k + 1))) →
    (ss 16).crc = 0x0000

/-- R77: `TICK_BYTE` while reading and locked tests for overrun, takes eight cells with the CRC allowed, announces the byte
and rearms `T_BYTE` for the separator's clock; otherwise it does nothing. -/
def Obligations.ByteTickAssemblesOneByte : Prop :=
  ∀ s : State,
    (s.mode = .reading → s.syncState = .locked →
      let q := shiftCells true 8 { s with overrun := s.overrun || !s.consumed }
      ∃ t, exec .byteReady q = .next t ∧
        exec .tickByte s = .next { t with
          timers := { s.timers with byte := some (s.now + (q.pllTime - s.now)) } }) ∧
    (s.mode ≠ .reading ∨ s.syncState ≠ .locked → exec .tickByte s = .next s)

/-- From R75 and R77: the byte assembled consists of the eight cells' data half-bits, the first at bit 7, and nothing of
the old byte is left. -/
def Obligations.AssembledByteIsItsEightDataHalfBits : Prop :=
  ∀ s t : State, s.mode = .reading → s.syncState = .locked → exec .tickByte s = .next t →
    ∀ k, k < 8 →
      t.dataSr.getLsbD (7 - k) = (shiftCell true (shiftCells true k { s with overrun := t.overrun })).1

/-- R78, R100 and R103: `BYTE_READY` announces the byte and completes a held access: a held `RD_DATA` returns the byte
`DATA_SR` holds and marks it consumed, a held `WR_CONTROL` just completes and the byte stays unread. That the resume
is part of `BYTE_READY`, and that what completes is put on record, is the model's: log entries 9 and 10. -/
def Obligations.ByteReadyAnnouncesAndResumes : Prop :=
  ∀ s : State,
    (s.gate = .opened → exec .byteReady s = .next { s with consumed := false }) ∧
    (s.gate = .blocked .rdData → exec .byteReady s = .next { s with
      consumed := true, gate := .opened, history := .answer s.now 2 s.dataSr :: s.history }) ∧
    (s.gate = .blocked .wrControl → exec .byteReady s = .next { s with
      consumed := false, gate := .opened, history := .release s.now :: s.history })

/-- R23 and R79: the overrun flag is sticky; nothing but `RESET` clears it. -/
def Obligations.OverrunIsStickyUntilReset : Prop :=
  ∀ (i : Instr) (s t : State), i ≠ .reset → exec i s = .next t → s.overrun = true → t.overrun = true

/-- R79: two byte-readys with no read between them set the overrun flag; the first, which finds the byte before it read,
does not. -/
def Obligations.TwoByteReadysWithoutAReadOverrun : Prop :=
  ∀ s t u : State, s.mode = .reading → s.syncState = .locked → s.gate = .opened → s.consumed = true →
    exec .tickByte s = .next t → exec .tickByte t = .next u →
    t.overrun = s.overrun ∧ t.consumed = false ∧ u.overrun = true ∧ u.consumed = false

/-- R100 and R123: a read that is held when the tick comes is completed by the tick itself with the new byte, and never
overruns. -/
def Obligations.HeldReadNeverOverruns : Prop :=
  ∀ s t : State, s.mode = .reading → s.syncState = .locked → s.gate = .blocked .rdData → s.consumed = true →
    exec .tickByte s = .next t →
    t.overrun = s.overrun ∧ t.consumed = true ∧ t.gate = .opened ∧
    t.history = .answer s.now 2 t.dataSr :: s.history

/-- R77 and R123: a byte tick that fires at the separator's clock arms the next one at least `8H` and at most
`16 * (H + ceil(H/2) - 1)` later, at the separator's new clock. -/
def Obligations.NextByteTickKeepsTheDeadline : Prop :=
  ∀ s t : State, 1 ≤ s.cfg.halfBit → s.mode = .reading → s.syncState = .locked → s.now = s.pllTime →
    exec .tickByte s = .next t →
    let h := s.cfg.halfBit
    t.timers.byte = some t.pllTime ∧ s.now + 8 * h ≤ t.pllTime ∧
    t.pllTime ≤ s.now + 16 * (h + (h - h / 2) - 1)

/-! ### The scheduler (R80 to R88) -/

/-- R80 and R81: `ARM` and `DISARM` write one timer, and nothing else. -/
def Obligations.ArmAndDisarmWriteOneTimer : Prop :=
  (∀ (k : TimerId) (n : Nat) (s : State), ∃ t : State, exec (.arm k n) s = .next t ∧
    t.timers.get k = some (s.now + n) ∧ (∀ j, j ≠ k → t.timers.get j = s.timers.get j) ∧
    t = { s with timers := t.timers }) ∧
  (∀ (k : TimerId) (s : State), ∃ t : State, exec (.disarm k) s = .next t ∧
    t.timers.get k = none ∧ (∀ j, j ≠ k → t.timers.get j = s.timers.get j) ∧
    t = { s with timers := t.timers })

/-- R87 and R88: the callbacks of the timeout and the auxiliary timer have no effect. -/
def Obligations.IdleCallbacksHaveNoEffect : Prop :=
  ∀ s : State, exec .tickTimeout s = .next s ∧ exec .tickAux s = .next s

/-- R83 and R84: `DELIVER` fires the armed timer with the least fire time, the first of rule R84's order at a tie: `NOW`
goes to its fire time, it is disarmed, and its callback runs. -/
def Obligations.DeliverFiresTheEarliestTimer : Prop :=
  ∀ (s : State) (k : TimerId) (f : Nat), s.timers.get k = some f →
    (∀ j g, s.timers.get j = some g → f < g ∨ (f = g ∧ k.rank ≤ j.rank)) →
    ∃ t, exec .deliver s = .next t ∧
      exec (tickOf k) { s with now := max s.now f, timers := s.timers.set k none } = .next t

/-- R90: with no timer armed and no input to come the block does nothing. That such a state steps to itself is the model's
choice, log entry 14. -/
def Obligations.QuietBlockStaysAsItIs : Prop :=
  ∀ s : State, (∀ k, s.timers.get k = none) → s.inputs = [] → step s = .next s

/-! ### The host handshake (R92 to R104) -/

/-- R92: the byte of a control/status read, bit by bit; nothing changes but that the byte is put out (log
entry 10). -/
def Obligations.StatusReadShowsTheSelectedDrive : Prop :=
  ∀ s : State, ∃ r : Byte,
    exec .rdStatus s = .next { s with history := .answer s.now 0 r :: s.history } ∧
    r.extractLsb' 0 5 = s.cfg.statusFillC ∧
    (r.getLsbD 5 = true ↔ ∃ d, s.driveSel = some d ∧ driveSignal s d (·.ready) s.now = true) ∧
    (r.getLsbD 6 = true ↔ ∃ d, s.driveSel = some d ∧ driveSignal s d (·.track0) s.now = true) ∧
    r.getLsbD 7 = s.crcErr

/-- R97: the byte of a drive-select read, bit by bit, in the polarities of rule R51; it is put out (log entry 10). -/
def Obligations.DriveStatusReadShowsTheSelectedDrive : Prop :=
  ∀ s : State, ∃ r : Byte,
    exec .rdDrvstat s = .next { s with history := .answer s.now 1 r :: s.history } ∧
    r.extractLsb' 0 5 = s.cfg.statusFillD ∧
    (r.getLsbD 5 = true ↔ ∃ d, s.driveSel = some d ∧ driveSignal s d (·.index) s.now = true) ∧
    ((s.cfg.polPresent = .high ↔ r.getLsbD 6 = true) ↔
      ∃ d, s.driveSel = some d ∧ driveSignal s d (·.present) s.now = true) ∧
    ((s.cfg.polWprot = .high ↔ r.getLsbD 7 = true) ↔
      ∃ d, s.driveSel = some d ∧ driveSignal s d (·.wprot) s.now = true)

/-- R93: a control write that is not refused forwards direction and step to the selected drive, latches `CRC_EN`, and
turns reading on or off on the edges of `RDEN`; otherwise reading goes on, or does not start. The record of the command
and the drive's reaction to it are the model's: log entries 8 and 10. -/
def Obligations.ControlWriteActsOnItsFields : Prop :=
  ∀ (v : Byte) (s : State), v.getLsbD 3 = false →
    let c : State := { s with
      crcEn   := v.getLsbD 4
      history := match s.driveSel with
        | none   => s.history
        | some d => .driveCmd s.now d (v.getLsbD 0) (v.getLsbD 1) :: s.history
      drives  := match s.driveSel with
        | none   => s.drives
        | some d => s.drives.modify d.val (Drive.react s.now (v.getLsbD 0) (v.getLsbD 1)) }
    (v.getLsbD 2 = true → s.mode = .idle →
      ∃ t, exec .readOn c = .next t ∧ exec (.wrControl v) s = .next t) ∧
    (v.getLsbD 2 = false → s.mode = .reading →
      ∃ t, exec .readOff c = .next t ∧ exec (.wrControl v) s = .next t) ∧
    (v.getLsbD 2 = true → s.mode ≠ .idle → exec (.wrControl v) s = .next c) ∧
    (v.getLsbD 2 = false → s.mode ≠ .reading → exec (.wrControl v) s = .next c)

/-- R94: `READ_ON` resets the Synchronizer, starts the separator's clock at `NOW`, arms the two timers and holds the host. -/
def Obligations.ReadOnStartsTheSearchAndHoldsTheHost : Prop :=
  ∀ s : State, exec .readOn s = .next { s with
    mode := .reading, syncState := .searchingSync, syncCnt := 0, clkSr := 0x00, dataSr := 0x00, pllTime := s.now
    timers := { s.timers with
      lock := some (s.now + 2 * s.cfg.halfBit), timeout := some (s.now + s.cfg.timeoutPeriod) }
    gate := .blocked .wrControl }

/-- R96: `READ_OFF` disarms the three timers, discards the transient state and the unread byte, and keeps the rest. -/
def Obligations.ReadOffDiscardsTheTransientState : Prop :=
  ∀ s : State, exec .readOff s = .next { s with
    mode := .idle, syncState := .searchingSync, syncCnt := 0, clkSr := 0x00, dataSr := 0x00, consumed := true
    timers := { s.timers with lock := none, byte := none, timeout := none } }

/-- R98: a drive-select write deselects when bit 3 is clear, and otherwise selects the drive of bits 2:0 if it is fitted and
ready, and none if it is not. -/
def Obligations.DriveSelectWriteSelectsAReadyDrive : Prop :=
  ∀ (v : Byte) (s : State),
    (v.getLsbD 3 = false → exec (.wrDrvsel v) s = .next { s with driveSel := none }) ∧
    (∀ n : Fin 8, v.getLsbD 3 = true → n.val = v.toNat % 8 →
      (n.val < s.cfg.nDrives → driveSignal s n (·.ready) s.now = true →
        exec (.wrDrvsel v) s = .next { s with driveSel := some n }) ∧
      (¬(n.val < s.cfg.nDrives ∧ driveSignal s n (·.ready) s.now = true) →
        exec (.wrDrvsel v) s = .next { s with driveSel := none }))

/-- R99 and R102: a data read returns an unread byte at once and marks it consumed, and otherwise holds the host. The
byte is put out (log entry 10). -/
def Obligations.DataReadReturnsOrHolds : Prop :=
  ∀ s : State,
    (s.consumed = false → exec .rdData s = .next { s with
      consumed := true, history := .answer s.now 2 s.dataSr :: s.history }) ∧
    (s.consumed = true → exec .rdData s = .next { s with gate := .blocked .rdData })

/-- R104: an access to `PORT = 3`, and one to any address outside `PORT_BASE` to `PORT_BASE + 2`, changes no state: the
step passes its time and takes it from the pending inputs, and that is all. Log entries 2, 13 and 19. -/
def Obligations.UndecodedAccessChangesNothing : Prop :=
  (∀ (w : Bool) (s : State), exec (.notDecoded w) s = .next s) ∧
  (∀ (s : State) (t : Nat) (w : Bool) (a : Nat) (v : Byte) (is : List Input),
    a < s.cfg.portBase ∨ s.cfg.portBase + 2 < a → s.gate = .opened → s.inputs = .access t w a v :: is →
    (∀ k f, s.timers.get k = some f → max s.now t < f) →
    step s = .next { s with now := max s.now t, inputs := is })

/-- R95 and R101: a control write with bit 3 set is refused whatever its other bits, and so is every write to the data
port. -/
def Obligations.WritePathIsRefused : Prop :=
  (∀ (v : Byte) (s : State), exec (.wrControlWren v) s = .refused .writeEnable) ∧
  (∀ (v : Byte) (s : State), v.getLsbD 3 = true → exec (.wrControl v) s = .refused .writeEnable) ∧
  (∀ (v : Byte) (s : State), exec (.wrData v) s = .refused .dataPortWrite)

/-- R48 and R50: bits 7:5 of a control write and bits 7:4 of a drive-select write are ignored. -/
def Obligations.IgnoredBitsHaveNoEffect : Prop :=
  (∀ (v v' : Byte) (s : State), v.extractLsb' 0 5 = v'.extractLsb' 0 5 →
    exec (.wrControl v) s = exec (.wrControl v') s) ∧
  (∀ (v v' : Byte) (s : State), v.extractLsb' 0 4 = v'.extractLsb' 0 4 →
    exec (.wrDrvsel v) s = exec (.wrDrvsel v') s)

/-! ### The step (R42, R43, R89 to R91, R107) -/

/-- R91: a step runs the decoded operation. When an input comes next, the step advances `NOW` to its time, takes it from
the pending inputs and executes what its bytes decode to; otherwise the scheduler delivers. An input whose time has
passed acts at `NOW` (log entry 2). The first two clauses cover the reset inputs too: that a reset moves `NOW` to its
time is log entry 5, which reset is fetched, and when it goes before a timer of its own time, log entries 3 and 4. The
third clause is about accesses alone. -/
def Obligations.StepRunsTheDecodedOperation : Prop :=
  ∀ s : State,
    (fetch s = none → step s = exec .deliver s) ∧
    (∀ bs s' i, fetch s = some (bs, s') → decode bs = .ok i → step s = exec i s') ∧
    (∀ (t : Nat) (w : Bool) (a : Nat) (v : Byte) (is : List Input) (i : Instr),
      s.gate = .opened → s.inputs = .access t w a v :: is →
      (∀ k f, s.timers.get k = some f → max s.now t < f) →
      decode (busBytes (busWord w (portOf s.cfg a) v)) = .ok i →
      step s = exec i { s with now := max s.now t, inputs := is })

/-- R43: every timer due at or before the time of a host access is delivered before it (an access whose time has passed
acts at `NOW`: log entry 2). -/
def Obligations.DueTimersGoBeforeAHostAccess : Prop :=
  ∀ (s : State) (t : Nat) (w : Bool) (a : Nat) (v : Byte) (is : List Input) (k : TimerId) (f : Nat),
    s.inputs = .access t w a v :: is → s.timers.get k = some f → f ≤ max s.now t → s.gate = .opened →
    step s = exec .deliver s ∧ ∃ u, step s = .next u ∧ u.inputs = s.inputs

/-- R89 and R102: while the gate is closed the host takes no step: its pending accesses stay as they are, and a reset may
come before them (log entry 3). A step with nothing to do leaves them too (log entry 14). -/
def Obligations.HeldHostIssuesNothing : Prop :=
  ∀ s t : State, s.gate ≠ .opened → step s = .next t →
    t.inputs.filter Input.isAccess = s.inputs.filter Input.isAccess

/-- R29 and R102: only a host operation closes the gate: a data read, or the control write that turns reading on. -/
def Obligations.OnlyTheHostClosesTheGate : Prop :=
  ∀ (i : Instr) (s t : State), exec i s = .next t → s.gate = .opened → t.gate ≠ .opened →
    i = .rdData ∧ s.consumed = true ∨ i = .readOn ∨
    ∃ v, i = .wrControl v ∧ v.getLsbD 2 = true ∧ s.mode = .idle

/-- R107 and R108: the block is total: every step answers a next state, or one of the two refusals of the write path.
That a step answers a next state where no timer is armed and no input comes, where no rule enables a step (R83, R90), is
the model's choice, log entry 14. -/
def Obligations.StepIsTotalButForTheWritePath : Prop :=
  ∀ s : State, (∃ t, step s = .next t) ∨
    ∃ t w a v is, nextInput s = some (.access t w a v, is) ∧ w = true ∧
      (a = s.cfg.portBase ∧ v.getLsbD 3 = true ∧ step s = .refused .writeEnable ∨
       a = s.cfg.portBase + 2 ∧ step s = .refused .dataPortWrite)

/-- R28, R42 and R83: virtual time never decreases; a step of the scheduler leaves it or takes it to the fire time of an
armed timer, and a step of an input to the time of that input, or leaves it when that time has passed (log entries 2
and 5). That a step leaves it where nothing is armed and nothing comes is log entry 14. -/
def Obligations.VirtualTimeNeverDecreases : Prop :=
  ∀ s t : State, step s = .next t → s.now ≤ t.now ∧
    (fetch s = none → t.now = s.now ∨ ∃ k, s.timers.get k = some t.now) ∧
    (∀ i is, nextInput s = some (i, is) → fetch s ≠ none → t.now = max s.now i.time)

/-- The model's `withFetchWord` places a `BUS` word so that the next step runs exactly what the decoder reads from it
(log entry 16). -/
def Obligations.PlacedWordRunsNext : Prop :=
  ∀ (s : State) (w : Nat) (i : Instr), w < 2048 → decodeTableWord 16 w = some i →
    step (s.withFetchWord 16 w) = exec i { s with gate := .opened, timers := dropDue s.now s.timers }

/-! ### Whole-machine rules -/

/-- R13, R21 and R24: nothing ever enters `Writing`, sets `CRC_OUT` or sets `CRC_ERR`. -/
def Obligations.WritePathStateIsNeverEntered : Prop :=
  ∀ (i : Instr) (s t : State), exec i s = .next t →
    (s.mode ≠ .writing → t.mode ≠ .writing) ∧ (s.crcOut = false → t.crcOut = false) ∧
    (s.crcErr = false → t.crcErr = false)

/-- R18 and R126: the CRC is written by `CRC_STEP` and `RESET` only: an operation other than these and the three that
contain `CRC_STEP` leaves it, and those three leave it while `CRC_EN` is 0. -/
def Obligations.CrcChangesOnlyByItsStepAndReset : Prop :=
  ∀ (i : Instr) (s t : State), exec i s = .next t → i ≠ .reset → (∀ d, i ≠ .crcStep d) →
    (s.crcEn = false ∨ i ≠ .shiftCell true ∧ i ≠ .tickByte ∧ i ≠ .deliver) → t.crc = s.crc

/-- R19: "DriveSelection persists across bytes until an explicit deselect write": only `WR_DRVSEL` and `RESET` write it. -/
def Obligations.DriveSelectionPersists : Prop :=
  ∀ (i : Instr) (s t : State), exec i s = .next t → (∀ v, i ≠ .wrDrvsel v) → i ≠ .reset →
    t.driveSel = s.driveSel

/-- R7 and R33: `H` and the other parameters never change, and the block never writes the medium: what the drives show
changes only by a command forwarded to the selected drive (log entries 6 and 8). -/
def Obligations.ParametersAndMediumAreReadOnly : Prop :=
  ∀ (i : Instr) (s t : State), exec i s = .next t →
    t.cfg = s.cfg ∧
    ((∀ v, i ≠ .wrControl v) ∨ s.driveSel = none → t.drives = s.drives) ∧
    ∀ d, s.driveSel ≠ some d → t.drives[d.val]? = s.drives[d.val]?

/-- R16, R23 and R126: `CLK_SR`, `CRC` and `OVERRUN` have no observer in the block: two states that differ only in them
step alike, and to states that differ only in them. -/
def Obligations.HiddenRegistersAreNeverObserved : Prop :=
  ∀ (s : State) (x : Byte) (c : CrcWord) (o : Bool),
    (∀ r, step s = .refused r → step { s with clkSr := x, crc := c, overrun := o } = .refused r) ∧
    (∀ t, step s = .next t → ∃ x' c' o',
      step { s with clkSr := x, crc := c, overrun := o } =
        .next { t with clkSr := x', crc := c', overrun := o' })

/-! ### Encodings (R47 to R53, R58) -/

/-- The bytes the encoder writes for a well-formed operation decode to that operation, with every operand at every value
its row admits. How a word is laid out in bytes is the model's: log entry 15. -/
def Obligations.DecodeOfEncodeIsTheOperation : Prop :=
  ∀ (i : Instr) (bs : List Byte), i.wf = true → encode i = some bs → decode bs = .ok i

/-- R58: every `BUS` word falls in exactly one row, and the decoder gives a well-formed operation of that row. -/
def Obligations.EveryBusWordFallsInOneRow : Prop :=
  ∀ w : BusWord, (decodeBus w).wf = true ∧
    ∃ r, (decodeBus w).row = some r ∧ r.width = 11 ∧ w.toNat &&& r.mask = r.value ∧
      ∀ (j : Instr) (r' : Row), j.row = some r' → r'.width = 11 → w.toNat &&& r'.mask = r'.value → r' = r

/-- R47, R53, R58: one `BUS` word of each row, its fields filled in by rule R47, decodes to the operation of its row, event
codes decode by rule R53, and exactly the unused event codes are rejected. 0x414 and 0x200 stand in rule R59, the other
words but 0x700 in the vectors V40 to V54, and 0x700 is written from R47 and R58 alone. The layout in bytes is log
entry 15. -/
def Obligations.WordsOfTheSpecDecode : Prop :=
  decodeTableWord 16 0x414 = some (.wrControl 0x14) ∧ decodeTableWord 16 0x200 = some .rdData ∧
  decodeTableWord 16 0x509 = some (.wrDrvsel 0x09) ∧ decodeTableWord 16 0x000 = some .rdStatus ∧
  decodeTableWord 16 0x100 = some .rdDrvstat ∧ decodeTableWord 16 0x408 = some (.wrControlWren 0x08) ∧
  decodeTableWord 16 0x655 = some (.wrData 0x55) ∧ decodeTableWord 16 0x700 = some (.notDecoded true) ∧
  decodeTableWord 8 2 = some .tickByte ∧ decodeTableWord 8 4 = some .reset ∧
  ∀ c : EvCode, decodeEv c = .error (.unusedEvent c) ↔ 5 ≤ c.toNat

/-! ### Invariants and headlines (R31, R33, R121, R122) -/

/-- R31: every step keeps the invariant, from every state that has it. What a step is where the spec leaves it open is the
model's: log entries 2 to 5 and 14. -/
def Obligations.EveryStepKeepsTheInvariant : Prop :=
  ∀ s t : State, Inv s → step s = .next t → Inv t

/-- R31: the reset state has the invariant. Its parameters are those of log entry 6. -/
def Obligations.ResetStateHasTheInvariant : Prop := Inv State.reset

/-- R33: the drives' transitions stay streams, strictly rising in time, under every step. The first clause, about the reset
state, rests on the model's choice of free streams for its drives (log entry 7); what a drive shows after a command is log
entry 8. -/
def Obligations.MediumStaysAStream : Prop :=
  mediumWf State.reset.drives ∧ ∀ s t : State, mediumWf s.drives → step s = .next t → mediumWf t.drives

/-- R122 and R66: a read started with no drive selected never finds a mark: however many steps follow, the search goes on
and the host stays held, as long as no reset comes (log entry 3). `Inv` rules out timers in the past. -/
def Obligations.ReadWithNoDriveHangsTheHost : Prop :=
  ∀ (n : Nat) (s : State), Inv s → s.mode = .reading → s.syncState = .searchingSync → s.driveSel = none →
    s.gate = .blocked .wrControl → (∀ i ∈ s.inputs, i.isAccess = true) →
    ∃ t, Host.Core.run core n s = .next t ∧ t.gate = .blocked .wrControl ∧ t.mode = .reading ∧
      t.syncState = .searchingSync ∧ t.inputs = s.inputs

/-- R121: a data read in `Idle` holds the host for ever: with the gate closed on it, no timer is armed, no step changes
anything, and only the reset input could act. That a state with nothing to do steps to itself is log entry 14. -/
def Obligations.DataReadInIdleHangsTheHost : Prop :=
  ∀ (n : Nat) (s t : State), Inv s → s.mode = .idle → (∀ i ∈ s.inputs, i.isAccess = true) →
    exec .rdData s = .next t → t.gate = .blocked .rdData ∧ Host.Core.run core n t = .next t
end

