-- ==== Sys2Proof/Laws/State.lean ====
section
/-! SUPPORT. What each named update of State leaves in each field, one lemma per field, so that no proof unfolds a
record update. -/

namespace Sys2Proof.Machine

variable (s : State)

/-! ### `emit` -/

@[simp] theorem emit_mode (e : Event) : (emit e s).mode = s.mode := rfl
@[simp] theorem emit_syncState (e : Event) : (emit e s).syncState = s.syncState := rfl
@[simp] theorem emit_syncCnt (e : Event) : (emit e s).syncCnt = s.syncCnt := rfl
@[simp] theorem emit_clkSr (e : Event) : (emit e s).clkSr = s.clkSr := rfl
@[simp] theorem emit_dataSr (e : Event) : (emit e s).dataSr = s.dataSr := rfl
@[simp] theorem emit_crc (e : Event) : (emit e s).crc = s.crc := rfl
@[simp] theorem emit_driveSel (e : Event) : (emit e s).driveSel = s.driveSel := rfl
@[simp] theorem emit_crcEn (e : Event) : (emit e s).crcEn = s.crcEn := rfl
@[simp] theorem emit_crcOut (e : Event) : (emit e s).crcOut = s.crcOut := rfl
@[simp] theorem emit_consumed (e : Event) : (emit e s).consumed = s.consumed := rfl
@[simp] theorem emit_overrun (e : Event) : (emit e s).overrun = s.overrun := rfl
@[simp] theorem emit_crcErr (e : Event) : (emit e s).crcErr = s.crcErr := rfl
@[simp] theorem emit_timers (e : Event) : (emit e s).timers = s.timers := rfl
@[simp] theorem emit_pllTime (e : Event) : (emit e s).pllTime = s.pllTime := rfl
@[simp] theorem emit_now (e : Event) : (emit e s).now = s.now := rfl
@[simp] theorem emit_gate (e : Event) : (emit e s).gate = s.gate := rfl
@[simp] theorem emit_cfg (e : Event) : (emit e s).cfg = s.cfg := rfl
@[simp] theorem emit_drives (e : Event) : (emit e s).drives = s.drives := rfl
@[simp] theorem emit_inputs (e : Event) : (emit e s).inputs = s.inputs := rfl
@[simp] theorem emit_history (e : Event) : (emit e s).history = e :: s.history := rfl
@[simp] theorem emit_microBit (e : Event) : (emit e s).microBit = s.microBit := rfl

/-! ### `arm` -/

@[simp] theorem arm_mode (k : TimerId) (n : Nat) : (arm k n s).mode = s.mode := rfl
@[simp] theorem arm_syncState (k : TimerId) (n : Nat) : (arm k n s).syncState = s.syncState := rfl
@[simp] theorem arm_syncCnt (k : TimerId) (n : Nat) : (arm k n s).syncCnt = s.syncCnt := rfl
@[simp] theorem arm_clkSr (k : TimerId) (n : Nat) : (arm k n s).clkSr = s.clkSr := rfl
@[simp] theorem arm_dataSr (k : TimerId) (n : Nat) : (arm k n s).dataSr = s.dataSr := rfl
@[simp] theorem arm_crc (k : TimerId) (n : Nat) : (arm k n s).crc = s.crc := rfl
@[simp] theorem arm_driveSel (k : TimerId) (n : Nat) : (arm k n s).driveSel = s.driveSel := rfl
@[simp] theorem arm_crcEn (k : TimerId) (n : Nat) : (arm k n s).crcEn = s.crcEn := rfl
@[simp] theorem arm_crcOut (k : TimerId) (n : Nat) : (arm k n s).crcOut = s.crcOut := rfl
@[simp] theorem arm_consumed (k : TimerId) (n : Nat) : (arm k n s).consumed = s.consumed := rfl
@[simp] theorem arm_overrun (k : TimerId) (n : Nat) : (arm k n s).overrun = s.overrun := rfl
@[simp] theorem arm_crcErr (k : TimerId) (n : Nat) : (arm k n s).crcErr = s.crcErr := rfl
@[simp] theorem arm_timers (k : TimerId) (n : Nat) : (arm k n s).timers = s.timers.set k (some (s.now + n)) := rfl
@[simp] theorem arm_pllTime (k : TimerId) (n : Nat) : (arm k n s).pllTime = s.pllTime := rfl
@[simp] theorem arm_now (k : TimerId) (n : Nat) : (arm k n s).now = s.now := rfl
@[simp] theorem arm_gate (k : TimerId) (n : Nat) : (arm k n s).gate = s.gate := rfl
@[simp] theorem arm_cfg (k : TimerId) (n : Nat) : (arm k n s).cfg = s.cfg := rfl
@[simp] theorem arm_drives (k : TimerId) (n : Nat) : (arm k n s).drives = s.drives := rfl
@[simp] theorem arm_inputs (k : TimerId) (n : Nat) : (arm k n s).inputs = s.inputs := rfl
@[simp] theorem arm_history (k : TimerId) (n : Nat) : (arm k n s).history = s.history := rfl
@[simp] theorem arm_microBit (k : TimerId) (n : Nat) : (arm k n s).microBit = s.microBit := rfl

/-! ### `disarm` -/

@[simp] theorem disarm_mode (k : TimerId) : (disarm k s).mode = s.mode := rfl
@[simp] theorem disarm_syncState (k : TimerId) : (disarm k s).syncState = s.syncState := rfl
@[simp] theorem disarm_syncCnt (k : TimerId) : (disarm k s).syncCnt = s.syncCnt := rfl
@[simp] theorem disarm_clkSr (k : TimerId) : (disarm k s).clkSr = s.clkSr := rfl
@[simp] theorem disarm_dataSr (k : TimerId) : (disarm k s).dataSr = s.dataSr := rfl
@[simp] theorem disarm_crc (k : TimerId) : (disarm k s).crc = s.crc := rfl
@[simp] theorem disarm_driveSel (k : TimerId) : (disarm k s).driveSel = s.driveSel := rfl
@[simp] theorem disarm_crcEn (k : TimerId) : (disarm k s).crcEn = s.crcEn := rfl
@[simp] theorem disarm_crcOut (k : TimerId) : (disarm k s).crcOut = s.crcOut := rfl
@[simp] theorem disarm_consumed (k : TimerId) : (disarm k s).consumed = s.consumed := rfl
@[simp] theorem disarm_overrun (k : TimerId) : (disarm k s).overrun = s.overrun := rfl
@[simp] theorem disarm_crcErr (k : TimerId) : (disarm k s).crcErr = s.crcErr := rfl
@[simp] theorem disarm_timers (k : TimerId) : (disarm k s).timers = s.timers.set k none := rfl
@[simp] theorem disarm_pllTime (k : TimerId) : (disarm k s).pllTime = s.pllTime := rfl
@[simp] theorem disarm_now (k : TimerId) : (disarm k s).now = s.now := rfl
@[simp] theorem disarm_gate (k : TimerId) : (disarm k s).gate = s.gate := rfl
@[simp] theorem disarm_cfg (k : TimerId) : (disarm k s).cfg = s.cfg := rfl
@[simp] theorem disarm_drives (k : TimerId) : (disarm k s).drives = s.drives := rfl
@[simp] theorem disarm_inputs (k : TimerId) : (disarm k s).inputs = s.inputs := rfl
@[simp] theorem disarm_history (k : TimerId) : (disarm k s).history = s.history := rfl
@[simp] theorem disarm_microBit (k : TimerId) : (disarm k s).microBit = s.microBit := rfl

/-! ### `stall` -/

@[simp] theorem stall_mode (op : HeldOp) : (stall op s).mode = s.mode := rfl
@[simp] theorem stall_syncState (op : HeldOp) : (stall op s).syncState = s.syncState := rfl
@[simp] theorem stall_syncCnt (op : HeldOp) : (stall op s).syncCnt = s.syncCnt := rfl
@[simp] theorem stall_clkSr (op : HeldOp) : (stall op s).clkSr = s.clkSr := rfl
@[simp] theorem stall_dataSr (op : HeldOp) : (stall op s).dataSr = s.dataSr := rfl
@[simp] theorem stall_crc (op : HeldOp) : (stall op s).crc = s.crc := rfl
@[simp] theorem stall_driveSel (op : HeldOp) : (stall op s).driveSel = s.driveSel := rfl
@[simp] theorem stall_crcEn (op : HeldOp) : (stall op s).crcEn = s.crcEn := rfl
@[simp] theorem stall_crcOut (op : HeldOp) : (stall op s).crcOut = s.crcOut := rfl
@[simp] theorem stall_consumed (op : HeldOp) : (stall op s).consumed = s.consumed := rfl
@[simp] theorem stall_overrun (op : HeldOp) : (stall op s).overrun = s.overrun := rfl
@[simp] theorem stall_crcErr (op : HeldOp) : (stall op s).crcErr = s.crcErr := rfl
@[simp] theorem stall_timers (op : HeldOp) : (stall op s).timers = s.timers := rfl
@[simp] theorem stall_pllTime (op : HeldOp) : (stall op s).pllTime = s.pllTime := rfl
@[simp] theorem stall_now (op : HeldOp) : (stall op s).now = s.now := rfl
@[simp] theorem stall_gate (op : HeldOp) : (stall op s).gate = .blocked op := rfl
@[simp] theorem stall_cfg (op : HeldOp) : (stall op s).cfg = s.cfg := rfl
@[simp] theorem stall_drives (op : HeldOp) : (stall op s).drives = s.drives := rfl
@[simp] theorem stall_inputs (op : HeldOp) : (stall op s).inputs = s.inputs := rfl
@[simp] theorem stall_history (op : HeldOp) : (stall op s).history = s.history := rfl
@[simp] theorem stall_microBit (op : HeldOp) : (stall op s).microBit = s.microBit := rfl

/-! ### `announce` -/

@[simp] theorem announce_mode : (announce s).mode = s.mode := rfl
@[simp] theorem announce_syncState : (announce s).syncState = s.syncState := rfl
@[simp] theorem announce_syncCnt : (announce s).syncCnt = s.syncCnt := rfl
@[simp] theorem announce_clkSr : (announce s).clkSr = s.clkSr := rfl
@[simp] theorem announce_dataSr : (announce s).dataSr = s.dataSr := rfl
@[simp] theorem announce_crc : (announce s).crc = s.crc := rfl
@[simp] theorem announce_driveSel : (announce s).driveSel = s.driveSel := rfl
@[simp] theorem announce_crcEn : (announce s).crcEn = s.crcEn := rfl
@[simp] theorem announce_crcOut : (announce s).crcOut = s.crcOut := rfl
@[simp] theorem announce_consumed : (announce s).consumed = false := rfl
@[simp] theorem announce_overrun : (announce s).overrun = s.overrun := rfl
@[simp] theorem announce_crcErr : (announce s).crcErr = s.crcErr := rfl
@[simp] theorem announce_timers : (announce s).timers = s.timers := rfl
@[simp] theorem announce_pllTime : (announce s).pllTime = s.pllTime := rfl
@[simp] theorem announce_now : (announce s).now = s.now := rfl
@[simp] theorem announce_gate : (announce s).gate = s.gate := rfl
@[simp] theorem announce_cfg : (announce s).cfg = s.cfg := rfl
@[simp] theorem announce_drives : (announce s).drives = s.drives := rfl
@[simp] theorem announce_inputs : (announce s).inputs = s.inputs := rfl
@[simp] theorem announce_history : (announce s).history = s.history := rfl
@[simp] theorem announce_microBit : (announce s).microBit = s.microBit := rfl

/-! ### `markOverrun` -/

@[simp] theorem markOverrun_mode : (markOverrun s).mode = s.mode := rfl
@[simp] theorem markOverrun_syncState : (markOverrun s).syncState = s.syncState := rfl
@[simp] theorem markOverrun_syncCnt : (markOverrun s).syncCnt = s.syncCnt := rfl
@[simp] theorem markOverrun_clkSr : (markOverrun s).clkSr = s.clkSr := rfl
@[simp] theorem markOverrun_dataSr : (markOverrun s).dataSr = s.dataSr := rfl
@[simp] theorem markOverrun_crc : (markOverrun s).crc = s.crc := rfl
@[simp] theorem markOverrun_driveSel : (markOverrun s).driveSel = s.driveSel := rfl
@[simp] theorem markOverrun_crcEn : (markOverrun s).crcEn = s.crcEn := rfl
@[simp] theorem markOverrun_crcOut : (markOverrun s).crcOut = s.crcOut := rfl
@[simp] theorem markOverrun_consumed : (markOverrun s).consumed = s.consumed := rfl
@[simp] theorem markOverrun_overrun : (markOverrun s).overrun = (s.overrun || !s.consumed) := rfl
@[simp] theorem markOverrun_crcErr : (markOverrun s).crcErr = s.crcErr := rfl
@[simp] theorem markOverrun_timers : (markOverrun s).timers = s.timers := rfl
@[simp] theorem markOverrun_pllTime : (markOverrun s).pllTime = s.pllTime := rfl
@[simp] theorem markOverrun_now : (markOverrun s).now = s.now := rfl
@[simp] theorem markOverrun_gate : (markOverrun s).gate = s.gate := rfl
@[simp] theorem markOverrun_cfg : (markOverrun s).cfg = s.cfg := rfl
@[simp] theorem markOverrun_drives : (markOverrun s).drives = s.drives := rfl
@[simp] theorem markOverrun_inputs : (markOverrun s).inputs = s.inputs := rfl
@[simp] theorem markOverrun_history : (markOverrun s).history = s.history := rfl
@[simp] theorem markOverrun_microBit : (markOverrun s).microBit = s.microBit := rfl

/-! ### `crcStep` -/

@[simp] theorem crcStep_mode (d : Bool) : (crcStep d s).mode = s.mode := rfl
@[simp] theorem crcStep_syncState (d : Bool) : (crcStep d s).syncState = s.syncState := rfl
@[simp] theorem crcStep_syncCnt (d : Bool) : (crcStep d s).syncCnt = s.syncCnt := rfl
@[simp] theorem crcStep_clkSr (d : Bool) : (crcStep d s).clkSr = s.clkSr := rfl
@[simp] theorem crcStep_dataSr (d : Bool) : (crcStep d s).dataSr = s.dataSr := rfl
@[simp] theorem crcStep_crc (d : Bool) : (crcStep d s).crc = crcNext s.crc d := rfl
@[simp] theorem crcStep_driveSel (d : Bool) : (crcStep d s).driveSel = s.driveSel := rfl
@[simp] theorem crcStep_crcEn (d : Bool) : (crcStep d s).crcEn = s.crcEn := rfl
@[simp] theorem crcStep_crcOut (d : Bool) : (crcStep d s).crcOut = s.crcOut := rfl
@[simp] theorem crcStep_consumed (d : Bool) : (crcStep d s).consumed = s.consumed := rfl
@[simp] theorem crcStep_overrun (d : Bool) : (crcStep d s).overrun = s.overrun := rfl
@[simp] theorem crcStep_crcErr (d : Bool) : (crcStep d s).crcErr = s.crcErr := rfl
@[simp] theorem crcStep_timers (d : Bool) : (crcStep d s).timers = s.timers := rfl
@[simp] theorem crcStep_pllTime (d : Bool) : (crcStep d s).pllTime = s.pllTime := rfl
@[simp] theorem crcStep_now (d : Bool) : (crcStep d s).now = s.now := rfl
@[simp] theorem crcStep_gate (d : Bool) : (crcStep d s).gate = s.gate := rfl
@[simp] theorem crcStep_cfg (d : Bool) : (crcStep d s).cfg = s.cfg := rfl
@[simp] theorem crcStep_drives (d : Bool) : (crcStep d s).drives = s.drives := rfl
@[simp] theorem crcStep_inputs (d : Bool) : (crcStep d s).inputs = s.inputs := rfl
@[simp] theorem crcStep_history (d : Bool) : (crcStep d s).history = s.history := rfl
@[simp] theorem crcStep_microBit (d : Bool) : (crcStep d s).microBit = s.microBit := rfl

/-! ### `syncReset` -/

@[simp] theorem syncReset_mode : (syncReset s).mode = s.mode := rfl
@[simp] theorem syncReset_syncState : (syncReset s).syncState = .searchingSync := rfl
@[simp] theorem syncReset_syncCnt : (syncReset s).syncCnt = 0 := rfl
@[simp] theorem syncReset_clkSr : (syncReset s).clkSr = 0 := rfl
@[simp] theorem syncReset_dataSr : (syncReset s).dataSr = 0 := rfl
@[simp] theorem syncReset_crc : (syncReset s).crc = s.crc := rfl
@[simp] theorem syncReset_driveSel : (syncReset s).driveSel = s.driveSel := rfl
@[simp] theorem syncReset_crcEn : (syncReset s).crcEn = s.crcEn := rfl
@[simp] theorem syncReset_crcOut : (syncReset s).crcOut = s.crcOut := rfl
@[simp] theorem syncReset_consumed : (syncReset s).consumed = s.consumed := rfl
@[simp] theorem syncReset_overrun : (syncReset s).overrun = s.overrun := rfl
@[simp] theorem syncReset_crcErr : (syncReset s).crcErr = s.crcErr := rfl
@[simp] theorem syncReset_timers : (syncReset s).timers = s.timers := rfl
@[simp] theorem syncReset_pllTime : (syncReset s).pllTime = s.pllTime := rfl
@[simp] theorem syncReset_now : (syncReset s).now = s.now := rfl
@[simp] theorem syncReset_gate : (syncReset s).gate = s.gate := rfl
@[simp] theorem syncReset_cfg : (syncReset s).cfg = s.cfg := rfl
@[simp] theorem syncReset_drives : (syncReset s).drives = s.drives := rfl
@[simp] theorem syncReset_inputs : (syncReset s).inputs = s.inputs := rfl
@[simp] theorem syncReset_history : (syncReset s).history = s.history := rfl
@[simp] theorem syncReset_microBit : (syncReset s).microBit = s.microBit := rfl

end Sys2Proof.Machine
end

