-- ==== Sys2Proof/Laws/Pll.lean ====
section
/-! SUPPORT. The Medium Source query and `SEP`: what each can answer and what it leaves (rules R38, R61). -/

namespace Sys2Proof.Machine

/-- Nothing found means nothing at or after `t`; a time found is listed, not before `t`, and the nearest. -/
theorem firstFrom_spec (t : Nat) (l : List Nat) :
    match firstFrom t l with
    | none => ∀ u ∈ l, u < t
    | some e => t ≤ e ∧ e ∈ l ∧ ∀ u ∈ l, t ≤ u → e ≤ u := by
  induction l with
  | nil => simp [firstFrom]
  | cons x xs ih =>
    unfold firstFrom
    cases hf : firstFrom t xs with
    | none =>
      rw [hf] at ih
      by_cases hx : t ≤ x
      · simp only [hx, if_true]
        refine ⟨trivial, by simp, ?_⟩
        intro u hu htu
        rcases List.mem_cons.1 hu with rfl | hu
        · exact le_refl _
        · have := ih u hu; omega
      · simp only [hx, if_false]
        intro u hu
        rcases List.mem_cons.1 hu with rfl | hu
        · omega
        · exact ih u hu
    | some f =>
      rw [hf] at ih
      obtain ⟨h1, h2, h3⟩ := ih
      by_cases hx : t ≤ x ∧ x < f
      · simp only [hx, and_self, if_true]
        refine ⟨trivial, by simp, ?_⟩
        intro u hu htu
        rcases List.mem_cons.1 hu with rfl | hu
        · exact le_refl _
        · have := h3 u hu htu; omega
      · simp only [hx, if_false]
        refine ⟨h1, by simp [h2], ?_⟩
        intro u hu htu
        rcases List.mem_cons.1 hu with rfl | hu
        · omega
        · exact h3 u hu htu

/-- The transitions of a free flux stream are at least one tick apart. -/
theorem fluxTime_rising (k n e e' : Nat) (h : fluxTime k n = some e) (h' : fluxTime k (n + 1) = some e') :
    e < e' := by
  simp only [fluxTime, h, Option.bind_some, Option.map_eq_some_iff] at h'
  obtain ⟨g, -, rfl⟩ := h'
  omega

/-- Every free flux stream is a stream. -/
theorem Flux.rising_free (k : Nat) : (Flux.free k).rising := fun n e e' => fluxTime_rising k n e e'

/-- A free flux stream that has ended stays ended. -/
theorem fluxTime_ended (k n d : Nat) (h : fluxTime k n = none) : fluxTime k (n + d) = none := by
  induction d with
  | zero => exact h
  | succ d ih => rw [← Nat.add_assoc, fluxTime, ih]; rfl

/-- A later transition of a free flux stream is not earlier in time. -/
theorem fluxTime_mono (k n d e u : Nat) (he : fluxTime k n = some e) (hu : fluxTime k (n + d) = some u) : e ≤ u := by
  induction d generalizing u with
  | zero => rw [Nat.add_zero, he] at hu; injection hu with hu; omega
  | succ d ih =>
    cases hd : fluxTime k (n + d) with
    | none => have := fluxTime_ended k (n + d) 1 hd; rw [Nat.add_assoc, hu] at this; cases this
    | some w => have := ih w hd; have := fluxTime_rising k _ _ _ hd hu; omega

/-- What the search finds among the transitions from `n` on, when transition `n`, if there is one, is `c` and its gap. -/
theorem seekFree_spec (k t fuel n c : Nat) (hc : fluxTime k n = (Config.fluxGap k n).map (c + ·)) (hct : c ≤ t)
    (hf : t < fuel + c) :
    match seekFree k t fuel n c with
    | none => ∀ m u, n ≤ m → fluxTime k m = some u → u < t
    | some e => t ≤ e ∧ (∃ m, fluxTime k m = some e) ∧
        ∀ m u, n ≤ m → fluxTime k m = some u → t ≤ u → e ≤ u := by
  induction fuel generalizing n c with
  | zero => omega
  | succ fuel ih =>
    unfold seekFree
    cases hg : Config.fluxGap k n with
    | none =>
      rw [hg] at hc
      intro m u hnm hu
      obtain ⟨d, rfl⟩ := Nat.exists_eq_add_of_le hnm
      rw [fluxTime_ended k n d hc] at hu; cases hu
    | some g =>
      rw [hg] at hc
      change fluxTime k n = some (c + g) at hc
      by_cases ht : t ≤ c + g
      · simp only [ht, if_true]
        refine ⟨trivial, ⟨n, hc⟩, fun m u hnm hu _ => ?_⟩
        obtain ⟨d, rfl⟩ := Nat.exists_eq_add_of_le hnm
        exact fluxTime_mono k n d _ u hc hu
      · simp only [ht, if_false]
        have hc' : fluxTime k (n + 1) = (Config.fluxGap k (n + 1)).map (c + g + 1 + ·) := by
          rw [fluxTime, hc]; rfl
        have := ih (n + 1) (c + g + 1) hc' (by omega) (by omega)
        have hn : ∀ m u, n ≤ m → fluxTime k m = some u → n + 1 ≤ m ∨ u = c + g := by
          intro m u hnm hu
          rcases Nat.lt_or_ge n m with h | h
          · exact .inl h
          · have : m = n := by omega
            subst this; rw [hc] at hu; injection hu with hu; exact .inr hu.symm
        cases hs : seekFree k t fuel (n + 1) (c + g + 1) with
        | none =>
          rw [hs] at this
          intro m u hnm hu
          rcases hn m u hnm hu with h | h
          · exact this m u h hu
          · omega
        | some e =>
          rw [hs] at this
          refine ⟨this.1, this.2.1, fun m u hnm hu htu => ?_⟩
          rcases hn m u hnm hu with h | h
          · exact this.2.2 m u h hu htu
          · omega

/-- Nothing found means no transition at or after `t`; a time found is a transition, not before `t`, and the nearest:
the premises of rule R38, whatever the free values are. -/
theorem Flux.next_spec (f : Flux) (t : Nat) :
    match f.next t with
    | none => ∀ u, f.has u → u < t
    | some e => t ≤ e ∧ f.has e ∧ ∀ u, f.has u → t ≤ u → e ≤ u := by
  cases f with
  | listed edges => exact firstFrom_spec t edges
  | free k =>
    have h := seekFree_spec k t (t + 1) 0 0 (by cases h : Config.fluxGap k 0 <;> simp [fluxTime, h])
      (Nat.zero_le t) (by omega)
    change match seekFree k t (t + 1) 0 0 with
      | none => ∀ u, (∃ n, fluxTime k n = some u) → u < t
      | some e => t ≤ e ∧ (∃ n, fluxTime k n = some e) ∧ ∀ u, (∃ n, fluxTime k n = some u) → t ≤ u → e ≤ u
    cases hs : seekFree k t (t + 1) 0 0 with
    | none =>
      rw [hs] at h
      exact fun u ⟨m, hm⟩ => h m u (Nat.zero_le m) hm
    | some e =>
      rw [hs] at h
      exact ⟨h.1, h.2.1, fun u ⟨m, hm⟩ => h.2.2 m u (Nat.zero_le m) hm⟩

/-- A stream stays a stream when its drive is sent a command. -/
theorem Flux.rising_react (f : Flux) (t : Nat) (dir step : Bool) (h : f.rising) : (f.react t dir step).rising := by
  cases f with
  | listed edges => exact h
  | free k => exact Flux.rising_free _

/-- A drive keeps the streams' order when it is sent a command. -/
theorem Drive.react_rising (d : Drive) (t : Nat) (dir step : Bool)
    (h : d.view.edges.rising ∧ ∀ v ∈ d.later, v.edges.rising) :
    (d.react t dir step).view.edges.rising ∧ ∀ v ∈ (d.react t dir step).later, v.edges.rising := by
  unfold Drive.react
  cases hl : d.later with
  | nil => exact ⟨Flux.rising_react _ t dir step h.1, fun v hv => (List.not_mem_nil hv).elim⟩
  | cons v vs => rw [hl] at h; exact ⟨h.2 v List.mem_cons_self, fun u hu => h.2 u (List.mem_cons_of_mem v hu)⟩

/-- The query never answers a time before the one asked from. -/
theorem nextTransition_ge (s : State) (t e : Nat) (h : nextTransition s t = some e) : t ≤ e := by
  unfold nextTransition at h
  split at h
  · simp at h
  · split at h
    · rename_i v _
      have := v.edges.next_spec t
      rw [h] at this
      exact this.1
    · simp at h

/-- What a window can give: 1 from an edge in it, or 0 and a free run. -/
theorem sepAt_cases (s : State) (c : Nat) :
    (∃ e, nextTransition s c = some e ∧ c ≤ e ∧ e < c + s.cfg.halfBit ∧
      sepAt s c = (true, e + (s.cfg.halfBit - s.cfg.halfBit / 2))) ∨
    ((∀ e, nextTransition s c = some e → c + s.cfg.halfBit ≤ e) ∧ sepAt s c = (false, c + s.cfg.halfBit)) := by
  unfold sepAt centre
  split
  · rename_i h; exact .inr ⟨by simp [h], rfl⟩
  · rename_i e h
    split
    · rename_i hlt; exact .inl ⟨e, h, nextTransition_ge s _ e h, hlt, rfl⟩
    · rename_i hge; exact .inr ⟨by simp [h]; omega, rfl⟩

/-- A window depends on the medium, the selection and the parameters, and on nothing else of the state. -/
theorem sepAt_congr (s t : State) (c : Nat) (hd : t.driveSel = s.driveSel) (hc : t.cfg = s.cfg)
    (hm : t.drives = s.drives) : sepAt t c = sepAt s c := by
  simp only [sepAt, nextTransition, viewOf, hd, hc, hm]

/-- `SEP` writes the separator's clock and nothing else. -/
theorem sep_frame (s : State) : (sep s).2 = { s with pllTime := (sep s).2.pllTime } := rfl

@[simp] theorem sep_bit (s : State) : (sep s).1 = (sepAt s s.pllTime).1 := rfl

@[simp] theorem sep_pllTime (s : State) : (sep s).2.pllTime = (sepAt s s.pllTime).2 := rfl

/-- One call advances the clock by at least half of `H` rounded up, and by less than `H` and that together. -/
theorem sep_advance (s : State) :
    s.pllTime + (s.cfg.halfBit - s.cfg.halfBit / 2) ≤ (sep s).2.pllTime ∧
    (sep s).2.pllTime ≤ s.pllTime + (s.cfg.halfBit + (s.cfg.halfBit - s.cfg.halfBit / 2) - 1) ∨
    s.cfg.halfBit = 0 := by
  rcases sepAt_cases s s.pllTime with ⟨e, -, h1, h2, h⟩ | ⟨-, h⟩ <;> simp [h] <;> omega

/-- With no drive selected every half-bit is 0 and the clock runs free (R66). -/
theorem sepAt_no_drive (s : State) (c : Nat) (h : s.driveSel = none) :
    sepAt s c = (false, c + s.cfg.halfBit) := by
  simp [sepAt, nextTransition, h]

end Sys2Proof.Machine
end

