-- ==== Sys2Proof/Laws/Assembler.lean ====
section
/-! SUPPORT. The byte assembler: what a cell, a run of cells, the resume and `TICK_BYTE` change, and what they leave
(rules R75 to R78, R103). -/

namespace Sys2Proof.Machine

/-- A bit shifted in stands at bit 0, and every other bit moves up by one. -/
theorem shiftIn_bit (x : Byte) (b : Bool) (n : Nat) (h : n < 8) :
    (shiftIn x b).getLsbD n = if n = 0 then b else x.getLsbD (n - 1) := by
  unfold shiftIn
  simp only [BitVec.getLsbD_or, BitVec.getLsbD_shiftLeft, BitVec.getLsbD_setWidth, BitVec.getLsbD_ofBool]
  by_cases hn : n = 0
  · subst hn; simp
  · have : ¬ n < 1 := by omega
    simp [hn, this, h]

/-- A cell in full: the windows at the separator's clock and after it, a bit into each accumulator, and the CRC step when
it is allowed. -/
theorem shiftCell_eq (b : Bool) (s : State) :
    shiftCell b s =
      let ck := sepAt s s.pllTime
      let d  := sepAt s ck.2
      (d.1, { s with
        pllTime := d.2
        clkSr   := shiftIn s.clkSr ck.1
        dataSr  := shiftIn s.dataSr d.1
        crc     := if b && s.crcEn && !s.crcOut then crcNext s.crc d.1 else s.crc }) := by
  unfold shiftCell
  simp only [sep]
  split <;> rename_i h <;> simp only [h] <;> rfl

/-- A cell writes the separator's clock, the two accumulators and the CRC. -/
theorem shiftCell_frame (b : Bool) (s : State) :
    (shiftCell b s).2 = { s with
      pllTime := (shiftCell b s).2.pllTime, clkSr := (shiftCell b s).2.clkSr,
      dataSr := (shiftCell b s).2.dataSr, crc := (shiftCell b s).2.crc } := by
  rw [shiftCell_eq]

/-- A cell enters its data half-bit into `DATA_SR` at bit 0. -/
theorem shiftCell_dataSr (b : Bool) (s : State) :
    (shiftCell b s).2.dataSr = shiftIn s.dataSr (shiftCell b s).1 := by
  rw [shiftCell_eq]

/-- The separator's clock after a cell is its clock after two calls of `SEP`. -/
theorem shiftCell_pllTime (b : Bool) (s : State) : (shiftCell b s).2.pllTime = (sep (sep s).2).2.pllTime := by
  rw [shiftCell_eq]
  rfl

/-- A cell leaves the CRC alone unless it is allowed, enabled and not in CRC-out mode. -/
theorem shiftCell_crc_same (b : Bool) (s : State) (h : (b && s.crcEn && !s.crcOut) = false) :
    (shiftCell b s).2.crc = s.crc := by
  rw [shiftCell_eq]
  simp [h]

/-- Two calls of `SEP` advance the clock by at least `2 * ceil(H/2)`, and so does a cell. -/
theorem shiftCell_advance (b : Bool) (s : State) (h : 1 ≤ s.cfg.halfBit) :
    s.pllTime + 2 * (s.cfg.halfBit - s.cfg.halfBit / 2) ≤ (shiftCell b s).2.pllTime ∧
    (shiftCell b s).2.pllTime ≤ s.pllTime + 2 * (s.cfg.halfBit + (s.cfg.halfBit - s.cfg.halfBit / 2) - 1) := by
  rw [shiftCell_pllTime]
  have h1 := sep_advance s
  have h2 := sep_advance (sep s).2
  rw [show (sep s).2.cfg = s.cfg from rfl] at h2
  omega

/-- A run of cells writes what a cell writes. -/
theorem shiftCells_frame (b : Bool) (n : Nat) (s : State) :
    shiftCells b n s = { s with
      pllTime := (shiftCells b n s).pllTime, clkSr := (shiftCells b n s).clkSr,
      dataSr := (shiftCells b n s).dataSr, crc := (shiftCells b n s).crc } := by
  induction n generalizing s with
  | zero => rfl
  | succ n ih =>
    unfold shiftCells
    rw [ih, shiftCell_frame]

/-- A run of `n` cells is `2n` calls of `SEP` for the clock. -/
theorem shiftCells_advance (b : Bool) (n : Nat) (s : State) (h : 1 ≤ s.cfg.halfBit) :
    s.pllTime + 2 * n * (s.cfg.halfBit - s.cfg.halfBit / 2) ≤ (shiftCells b n s).pllTime ∧
    (shiftCells b n s).pllTime ≤
      s.pllTime + 2 * n * (s.cfg.halfBit + (s.cfg.halfBit - s.cfg.halfBit / 2) - 1) := by
  induction n generalizing s with
  | zero => simp [shiftCells]
  | succ n ih =>
    have hc := shiftCell_advance b s h
    have hcfg : (shiftCell b s).2.cfg = s.cfg := by rw [shiftCell_frame]
    have := ih (shiftCell b s).2 (by rw [hcfg]; exact h)
    rw [hcfg] at this
    unfold shiftCells
    constructor
    · calc _ = s.pllTime + 2 * (s.cfg.halfBit - s.cfg.halfBit / 2) +
            2 * n * (s.cfg.halfBit - s.cfg.halfBit / 2) := by ring
        _ ≤ _ := by omega
    · calc _ ≤ s.pllTime + 2 * (s.cfg.halfBit + (s.cfg.halfBit - s.cfg.halfBit / 2) - 1) +
            2 * n * (s.cfg.halfBit + (s.cfg.halfBit - s.cfg.halfBit / 2) - 1) := by omega
        _ = _ := by ring

/-- A run of cells whose step is not allowed, or not enabled, leaves the CRC alone. -/
theorem shiftCells_crc_same (b : Bool) (n : Nat) (s : State) (h : (b && s.crcEn && !s.crcOut) = false) :
    (shiftCells b n s).crc = s.crc := by
  induction n generalizing s with
  | zero => rfl
  | succ n ih =>
    unfold shiftCells
    rw [ih, shiftCell_crc_same b s h]
    rw [shiftCell_frame]; exact h

/-- The resume opens the gate; it touches `CONSUMED` and the record of outputs and nothing else. -/
theorem resume_frame (s : State) :
    resume s = { s with consumed := (resume s).consumed, gate := .opened, history := (resume s).history } := by
  unfold resume emit
  split
  · rename_i h; rw [← h]
  · rfl
  · rfl

/-- `BYTE_READY` writes `CONSUMED`, opens the gate, and touches the record of outputs. -/
theorem byteReady_frame (s : State) :
    byteReady s = { s with
      consumed := (byteReady s).consumed, gate := .opened, history := (byteReady s).history } := by
  unfold byteReady
  rw [resume_frame]
  rfl

/-- `BYTE_READY` leaves the byte unread unless a held `RD_DATA` takes it. -/
theorem byteReady_consumed (s : State) :
    (byteReady s).consumed = decide (s.gate = .blocked .rdData) := by
  unfold byteReady resume announce emit
  cases h : s.gate with
  | opened => simp
  | blocked op => cases op <;> simp

/-- What `TICK_BYTE` changes while locked and reading. -/
theorem tickByte_locked (s : State) (hm : s.mode = .reading) (hl : s.syncState = .locked) :
    tickByte s = arm .byte ((shiftCells true cellsPerByte (markOverrun s)).pllTime - s.now)
      (byteReady (shiftCells true cellsPerByte (markOverrun s))) := by
  unfold tickByte
  simp only [hm, hl, and_self, if_true]
  rw [byteReady_frame, shiftCells_frame]
  rfl

/-- What `TICK_BYTE` may change. -/
theorem tickByte_frame (s : State) :
    tickByte s = { s with
      pllTime := (tickByte s).pllTime, clkSr := (tickByte s).clkSr, dataSr := (tickByte s).dataSr,
      crc := (tickByte s).crc, overrun := (tickByte s).overrun, consumed := (tickByte s).consumed,
      gate := (tickByte s).gate, history := (tickByte s).history, timers := (tickByte s).timers } := by
  by_cases h : s.mode = .reading ∧ s.syncState = .locked
  · rw [tickByte_locked s h.1 h.2, byteReady_frame, shiftCells_frame]
    rfl
  · unfold tickByte
    simp only [h, if_false]

end Sys2Proof.Machine
end

