-- ==== Sys2Proof/Laws/Synchronizer.lean ====
section
/-! SUPPORT. The synchronizer: what each arm of `TICK_LOCK` changes, and what it leaves (rules R68 to R72). -/

namespace Sys2Proof.Machine

/-- The lock transition: at most one more call of `SEP`, and three state elements. -/
theorem lockFound_frame (b : Bool) (s : State) :
    lockFound b s = { s with
      pllTime := (lockFound b s).pllTime, clkSr := 0, dataSr := 0, syncState := .searchingMark } := by
  unfold lockFound
  cases b <;> rfl

/-- The search writes the separator's clock, the counter, the accumulators at lock, the state, and `T_LOCK`. -/
theorem searchSync_frame (s : State) :
    searchSync s = { s with
      pllTime := (searchSync s).pllTime, syncCnt := (searchSync s).syncCnt, clkSr := (searchSync s).clkSr,
      dataSr := (searchSync s).dataSr, syncState := (searchSync s).syncState,
      timers := (searchSync s).timers } := by
  unfold searchSync
  by_cases h : (sep s).1 = (sep (sep s).2).1
  · simp only [h, if_true]; rfl
  · by_cases h' : (sep (sep s).2).2.syncCnt + 1 = syncThreshold
    · simp only [h, if_false, h', if_true]
      rw [lockFound_frame]
      rfl
    · simp only [h, if_false, h']; rfl

/-- The search leaves every other timer as it was, and arms `T_LOCK` one bit cell after the separator's clock. -/
theorem searchSync_timers (s : State) :
    (searchSync s).timers =
      s.timers.set .lock (some (s.now + ((searchSync s).pllTime + 2 * s.cfg.halfBit - s.now))) := by
  unfold searchSync
  by_cases h : (sep s).1 = (sep (sep s).2).1
  · simp only [h, if_true]; rfl
  · by_cases h' : (sep (sep s).2).2.syncCnt + 1 = syncThreshold
    · simp only [h, if_false, h', if_true]
      rw [lockFound_frame]
      rfl
    · simp only [h, if_false, h']; rfl

/-- The search tick in full: two windows, the counter, and at the threshold the lock transition with its third window. -/
theorem searchSync_eq (s : State) : searchSync s =
    let a := sepAt s s.pllTime
    let b := sepAt s a.2
    let p := if b.1 then (sepAt s b.2).2 else b.2
    if a.1 = b.1 then
      { s with pllTime := b.2, syncCnt := 0,
               timers := s.timers.set .lock (some (s.now + (b.2 + 2 * s.cfg.halfBit - s.now))) }
    else if s.syncCnt + 1 = 29 then
      { s with pllTime := p, syncCnt := 29, clkSr := 0, dataSr := 0, syncState := .searchingMark,
               timers := s.timers.set .lock (some (s.now + (p + 2 * s.cfg.halfBit - s.now))) }
    else
      { s with pllTime := b.2, syncCnt := s.syncCnt + 1,
               timers := s.timers.set .lock (some (s.now + (b.2 + 2 * s.cfg.halfBit - s.now))) } := by
  unfold searchSync
  by_cases h : (sepAt s s.pllTime).1 = (sepAt s (sepAt s s.pllTime).2).1
  · have h' : (sep s).1 = (sep (sep s).2).1 := h
    simp only [h, h', if_true]; rfl
  · have h' : ¬ (sep s).1 = (sep (sep s).2).1 := h
    by_cases h2 : s.syncCnt + 1 = 29
    · have h2' : (sep (sep s).2).2.syncCnt + 1 = syncThreshold := h2
      simp only [h, h', h2, h2', if_true, if_false]
      unfold lockFound
      cases hb : (sepAt s (sepAt s s.pllTime).2).1
      · have hb' : (sep (sep s).2).1 = false := hb
        simp only [hb']; rfl
      · have hb' : (sep (sep s).2).1 = true := hb
        simp only [hb']; rfl
    · have h2' : ¬ (sep (sep s).2).2.syncCnt + 1 = syncThreshold := h2
      simp only [h, h', h2, h2', if_false]
      rfl

/-- Mark found: the seven remaining cells, the byte timer, `LOCKED`, byte-ready. -/
theorem markFound_frame (s : State) :
    markFound s = { s with
      pllTime := (shiftCells false 7 s).pllTime, clkSr := (shiftCells false 7 s).clkSr,
      dataSr := (shiftCells false 7 s).dataSr, syncState := .locked,
      timers := (s.timers.set .byte (some (s.now + ((shiftCells false 7 s).pllTime - s.now)))).set .lock none,
      consumed := (markFound s).consumed, gate := .opened, history := (markFound s).history } := by
  have hq := shiftCells_frame false 7 s
  rw [shiftCells_crc_same false 7 s rfl] at hq
  unfold markFound cellsPerByte
  simp only [Nat.reduceSub]
  generalize shiftCells false 7 s = q at hq ⊢
  rw [byteReady_frame]
  obtain ⟨p, c, d, rfl⟩ : ∃ p c d, q = { s with pllTime := p, clkSr := c, dataSr := d } := ⟨_, _, _, hq⟩
  rfl

/-- The search for the mark writes the clock, the accumulators and the timers; at the mark also the state, `CONSUMED`,
the gate and the record of outputs. The CRC is never touched. -/
theorem searchMark_frame (s : State) :
    searchMark s = { s with
      pllTime := (searchMark s).pllTime, clkSr := (searchMark s).clkSr, dataSr := (searchMark s).dataSr,
      syncState := (searchMark s).syncState, timers := (searchMark s).timers,
      consumed := (searchMark s).consumed, gate := (searchMark s).gate, history := (searchMark s).history } := by
  have hc := shiftCell_crc_same false s rfl
  unfold searchMark
  simp only
  split
  · rw [markFound_frame, shiftCell_frame]
    simp only [hc]
  · unfold rearmLock
    rw [shiftCell_frame]
    simp only [hc, arm]

/-- What `TICK_LOCK` may change. -/
theorem tickLock_frame (s : State) :
    tickLock s = { s with
      pllTime := (tickLock s).pllTime, syncCnt := (tickLock s).syncCnt, clkSr := (tickLock s).clkSr,
      dataSr := (tickLock s).dataSr, syncState := (tickLock s).syncState, timers := (tickLock s).timers,
      consumed := (tickLock s).consumed, gate := (tickLock s).gate, history := (tickLock s).history } := by
  unfold tickLock
  split
  · split
    · rw [searchSync_frame]
    · rw [searchMark_frame]
    · rfl
  · rfl

end Sys2Proof.Machine
end

