-- ==== Sys2Proof/Laws/Handshake.lean ====
section
/-! SUPPORT. The host handshake: what a forwarded command and a selection can do (rules R40, R98). -/

namespace Sys2Proof.Machine

/-- A forwarded command touches the record of outputs and the medium's data, and nothing else. -/
theorem driveCmd_frame (a b : Bool) (s : State) :
    driveCmd a b s = { s with drives := (driveCmd a b s).drives, history := (driveCmd a b s).history } := by
  unfold driveCmd emit
  split <;> rfl

/-- The part of a control write that does not depend on `RDEN`. -/
theorem latch_frame (v : Byte) (s : State) :
    latch v s = { s with crcEn := ctlCrcen v, drives := (latch v s).drives, history := (latch v s).history } := by
  unfold latch
  rw [driveCmd_frame]

/-- What a control write that is not refused comes to: the latch alone, or the latch and an edge of `RDEN`. -/
theorem controlWrite_cases (v : Byte) (s : State) :
    controlWrite v s = latch v s ∨
    (s.mode = .idle ∧ ctlRden v = true ∧ controlWrite v s = readOn (latch v s)) ∨
    (s.mode = .reading ∧ ctlRden v = false ∧ controlWrite v s = readOff (latch v s)) := by
  unfold controlWrite
  cases s.mode <;> cases ctlRden v <;> simp

/-- The port field of an address says which of the three addresses it is, or that it is none of them. -/
theorem portOf_cases (c : Config) (a : Nat) :
    (portOf c a = 0 ∧ a = c.portBase) ∨ (portOf c a = 1 ∧ a = c.portBase + 1) ∨
    (portOf c a = 2 ∧ a = c.portBase + 2) ∨ portOf c a = 3 := by
  unfold portOf
  split_ifs <;> simp [*]

/-- A drive-select write selects the drive it names, and only one that is fitted. -/
theorem selection_some (v : Byte) (s : State) (d : Fin 8) (h : selection v s = some d) :
    selSel v = true ∧ d = selDrv v ∧ d.val < s.cfg.nDrives ∧ driveSignal s d (·.ready) s.now = true := by
  unfold selection at h
  split at h
  · rename_i hc
    simp only [Option.some.injEq] at h
    subst h
    exact ⟨hc.1, rfl, hc.2.1, hc.2.2⟩
  · simp at h

end Sys2Proof.Machine
end

