-- ==== Sys2Proof/Laws/Timers.lean ====
section
/-! SUPPORT. The timers: reading after writing, and what `earliest` finds (rules R80, R81, R83). -/

namespace Sys2Proof.Machine

/-- Reading a timer after a write to one. -/
theorem Timers.get_set (t : Timers) (k j : TimerId) (v : Option Nat) :
    (t.set k v).get j = if j = k then v else t.get j := by
  cases k <;> cases j <;> rfl

@[simp] theorem Timers.get_set_self (t : Timers) (k : TimerId) (v : Option Nat) : (t.set k v).get k = v := by
  simp [Timers.get_set]

@[simp] theorem sooner_none_left (b : Option (TimerId × Nat)) : sooner none b = b := by cases b <;> rfl

@[simp] theorem sooner_none_right (a : Option (TimerId × Nat)) : sooner a none = a := by cases a <;> rfl

@[simp] theorem sooner_some_some (x y : TimerId × Nat) :
    sooner (some x) (some y) = if y.2 < x.2 then some y else some x := rfl

/-- Of two candidates, one is kept. -/
@[simp] theorem sooner_eq_none (a b : Option (TimerId × Nat)) : sooner a b = none ↔ a = none ∧ b = none := by
  cases a <;> cases b <;> simp [sooner]
  split_ifs <;> simp

/-- A choice between candidates already made moves out of the next comparison. -/
theorem sooner_ite (c : Prop) [Decidable c] (x y b : Option (TimerId × Nat)) :
    sooner (if c then x else y) b = if c then sooner x b else sooner y b := by
  split <;> rfl

/-- No timer is found exactly when none is armed. -/
theorem earliest_eq_none (t : Timers) : earliest t = none ↔ ∀ k, t.get k = none := by
  simp only [earliest, timerOrder, List.foldl_cons, List.foldl_nil, sooner_eq_none, Option.map_eq_none_iff]
  exact ⟨fun h k => by cases k <;> simp_all, fun h => by simp [h]⟩

/-- The timer found is armed, and every other armed timer fires later, or at the same time and stands after it (R83,
R84). -/
theorem earliest_eq_some (t : Timers) (k : TimerId) (f : Nat) (h : earliest t = some (k, f)) :
    t.get k = some f ∧ ∀ j g, t.get j = some g → f < g ∨ (f = g ∧ k.rank ≤ j.rank) := by
  obtain ⟨a, b, c, d⟩ := t
  cases a <;> cases b <;> cases c <;> cases d <;>
    simp only [earliest, timerOrder, Timers.get, sooner_none_left, sooner_none_right, sooner_some_some, sooner_ite,
      List.foldl_cons, List.foldl_nil, Option.map_none, Option.map_some] at h <;>
    (try split_ifs at h) <;>
    simp only [reduceCtorEq, Option.some.injEq, Prod.mk.injEq] at h <;>
    (obtain ⟨rfl, rfl⟩ := h
     refine ⟨rfl, fun j g hg => ?_⟩
     cases j <;> simp only [Timers.get, reduceCtorEq, Option.some.injEq] at hg <;>
       simp only [TimerId.rank] <;> omega)

/-- A delivery does nothing, or runs the callback of the timer found. -/
theorem deliver_cases (s : State) :
    (earliest s.timers = none ∧ deliver s = s) ∨
    ∃ k f, earliest s.timers = some (k, f) ∧ deliver s = callback k (disarm k { s with now := max s.now f }) := by
  unfold deliver
  cases earliest s.timers with
  | none => exact .inl ⟨rfl, rfl⟩
  | some p => exact .inr ⟨p.1, p.2, rfl, rfl⟩

end Sys2Proof.Machine
end

