-- ==== Sys2Proof/Laws/Step.lean ====
section
/-! SUPPORT. The step: every input has bytes the decoder accepts, and a step is a delivery or one decoded operation
(rules R42, R58, R89). -/

namespace Sys2Proof

/-- The bytes of a `BUS` word decode to the word's operation. -/
theorem decode_busBytes (w : BusWord) : decode (busBytes w) = .ok (decodeBus w) := by
  have h1 : ((w.extractLsb' 8 3).setWidth 8).extractLsb' 3 5 = 0 := by
    ext i hi
    simp
  have h2 : (((w.extractLsb' 8 3).setWidth 8).extractLsb' 0 3 ++ w.extractLsb' 0 8 : BusWord) = w := by
    ext i hi
    simp only [BitVec.getElem_append, BitVec.getElem_extractLsb']
    split
    · simp [BitVec.getLsbD_eq_getElem hi]
    · have : i - 8 < 3 := by omega
      simp [this, show 8 + (i - 8) = i by omega, BitVec.getLsbD_eq_getElem hi]
      omega
  simp only [busBytes, decode, h1, if_true, h2]

@[simp] theorem busW_busWord : ∀ (w : Bool) (p : BitVec 2) (v : Byte), busW (busWord w p v) = w := by
  decide +kernel

@[simp] theorem busPort_busWord : ∀ (w : Bool) (p : BitVec 2) (v : Byte), busPort (busWord w p v) = p := by
  decide +kernel

@[simp] theorem busData_busWord : ∀ (w : Bool) (p : BitVec 2) (v : Byte), busData (busWord w p v) = v := by
  decide +kernel

/-- The operation of a `BUS` word by its fields (R47, R58). -/
theorem decodeBus_busWord (w : Bool) (p : BitVec 2) (v : Byte) :
    decodeBus (busWord w p v) =
      if p = 0 then if w then if v.getLsbD 3 then .wrControlWren v else .wrControl v else .rdStatus
      else if p = 1 then if w then .wrDrvsel v else .rdDrvstat
      else if p = 2 then if w then .wrData v else .rdData
      else .notDecoded w := by
  simp only [decodeBus, busW_busWord, busPort_busWord, busData_busWord]

end Sys2Proof

namespace Sys2Proof.Machine

/-- The operation an input stands for. -/
theorem input_decodes (c : Config) (i : Input) :
    decode (i.bytes c) = .ok (match i with
      | .access _ w a d => decodeBus (busWord w (portOf c a) d)
      | .reset _ _ => .reset) := by
  cases i with
  | access t w a d => exact decode_busBytes _
  | reset t e => rfl

/-- A step is a delivery, or the next input's operation in the state at that input's time. -/
theorem step_cases (s : State) :
    (fetch s = none ∧ step s = .next (deliver s)) ∨
    ∃ i is j, nextInput s = some (i, is) ∧ timerFirst s.timers (max s.now i.time) i = false ∧
      decode (i.bytes s.cfg) = .ok j ∧
      step s = exec j { s with now := max s.now i.time, inputs := is } := by
  unfold step
  cases hn : nextInput s with
  | none => exact .inl (by simp [fetch, hn, exec, execDeliver])
  | some p =>
    obtain ⟨i, is⟩ := p
    cases ht : timerFirst s.timers (max s.now i.time) i with
    | true => exact .inl (by simp [fetch, hn, ht, exec, execDeliver])
    | false =>
      refine .inr ⟨i, is, _, rfl, ht, input_decodes s.cfg i, ?_⟩
      simp [fetch, hn, ht, input_decodes]

/-- The state an operation answers, for each operation that answers one. -/
theorem exec_next (i : Instr) (s t : State) (h : exec i s = .next t) :
    match i with
    | .rdStatus        => t = emit (.answer s.now 0 (statusOf s)) s
    | .wrControl v     => ctlWren v = false ∧ t = controlWrite v s
    | .wrControlWren _ => False
    | .rdDrvstat       => t = emit (.answer s.now 1 (drvstatOf s)) s
    | .wrDrvsel v      => t = { s with driveSel := selection v s }
    | .rdData          => t = readData s
    | .wrData _        => False
    | .notDecoded _    => t = s
    | .tickTimeout     => t = s
    | .tickLock        => t = tickLock s
    | .tickByte        => t = tickByte s
    | .tickAux         => t = s
    | .reset           => t = resetBlock s
    | .sep             => t = { (sep s).2 with microBit := (sep s).1 }
    | .shiftCell b     => t = { (shiftCell b s).2 with microBit := (shiftCell b s).1 }
    | .crcStep d       => t = crcStep d s
    | .byteReady       => t = byteReady s
    | .readOn          => t = readOn s
    | .readOff         => t = readOff s
    | .syncReset       => t = syncReset s
    | .arm k n         => t = arm k n s
    | .disarm k        => t = disarm k s
    | .deliver         => t = deliver s := by
  cases i with
  | wrControl v =>
    simp only [exec, execWrControl] at h
    cases hw : ctlWren v <;> simp only [hw] at h
    · injection h with h; exact ⟨hw, h.symm⟩
    · cases h
  | wrControlWren v => cases h
  | wrData v => cases h
  | _ => injection h with h; exact h.symm

/-- While the host is held the next input is a reset, and every access stays pending. -/
theorem takeReset_spec (l : List Input) (i : Input) (is : List Input) (h : takeReset l = some (i, is)) :
    (∃ t e, i = .reset t e) ∧ is.filter Input.isAccess = l.filter Input.isAccess := by
  induction l generalizing i is with
  | nil => cases h
  | cons x xs ih =>
    cases x with
    | reset t e =>
      injection h with h; injection h with h1 h2; subst h1 h2
      exact ⟨⟨_, _, rfl⟩, by simp [Input.isAccess]⟩
    | access t w a d =>
      change (takeReset xs).map _ = _ at h
      cases hx : takeReset xs with
      | none => rw [hx] at h; cases h
      | some p =>
        rw [hx] at h
        injection h with h; injection h with h1 h2; subst h1 h2
        have := ih p.1 p.2 hx
        exact ⟨this.1, by rw [List.filter_cons_of_pos rfl, List.filter_cons_of_pos rfl, this.2]⟩

end Sys2Proof.Machine
end

