-- ==== Sys2Proof/Laws/PerInstr.lean ====
section
/-! SUPPORT. Statements about every operation as syntax, one lemma per constructor. -/

namespace Sys2Proof.Laws.EncodingLiesInRow

/-- The word written for a well-formed operation carries its own row's fixed bits (R58, R53), and an operation without a
row has no word. -/
def Statement (i : Instr) : Prop :=
  i.wf = true →
    match i.row with
    | some r =>
      (∃ w, encodeBus i = some w ∧ encodeEv i = none ∧ r.width = 11 ∧ w.toNat &&& r.mask = r.value) ∨
      (∃ c, encodeEv i = some c ∧ encodeBus i = none ∧ r.width = 3 ∧ c.toNat &&& r.mask = r.value)
    | none => encode i = none

theorem rdStatus : Statement .rdStatus := fun _ => .inl ⟨_, rfl, rfl, rfl, by decide⟩
theorem wrControl (v : Byte) : Statement (.wrControl v) := by
  intro h
  refine .inl ⟨_, rfl, rfl, rfl, ?_⟩
  revert h
  revert v
  decide
theorem wrControlWren (v : Byte) : Statement (.wrControlWren v) := by
  intro h
  refine .inl ⟨_, rfl, rfl, rfl, ?_⟩
  revert h
  revert v
  decide
theorem rdDrvstat : Statement .rdDrvstat := fun _ => .inl ⟨_, rfl, rfl, rfl, by decide⟩
theorem wrDrvsel (v : Byte) : Statement (.wrDrvsel v) := fun _ => .inl ⟨_, rfl, rfl, rfl, by revert v; decide⟩
theorem rdData : Statement .rdData := fun _ => .inl ⟨_, rfl, rfl, rfl, by decide⟩
theorem wrData (v : Byte) : Statement (.wrData v) := fun _ => .inl ⟨_, rfl, rfl, rfl, by revert v; decide⟩
theorem notDecoded (w : Bool) : Statement (.notDecoded w) := fun _ => .inl ⟨_, rfl, rfl, rfl, by revert w; decide⟩
theorem tickTimeout : Statement .tickTimeout := fun _ => .inr ⟨_, rfl, rfl, rfl, by decide⟩
theorem tickLock : Statement .tickLock := fun _ => .inr ⟨_, rfl, rfl, rfl, by decide⟩
theorem tickByte : Statement .tickByte := fun _ => .inr ⟨_, rfl, rfl, rfl, by decide⟩
theorem tickAux : Statement .tickAux := fun _ => .inr ⟨_, rfl, rfl, rfl, by decide⟩
theorem reset : Statement .reset := fun _ => .inr ⟨_, rfl, rfl, rfl, by decide⟩
theorem sep : Statement .sep := fun _ => rfl
theorem shiftCell (crcAllowed : Bool) : Statement (.shiftCell crcAllowed) := fun _ => rfl
theorem crcStep (d : Bool) : Statement (.crcStep d) := fun _ => rfl
theorem byteReady : Statement .byteReady := fun _ => rfl
theorem readOn : Statement .readOn := fun _ => rfl
theorem readOff : Statement .readOff := fun _ => rfl
theorem syncReset : Statement .syncReset := fun _ => rfl
theorem arm (k : TimerId) (delay : Nat) : Statement (.arm k delay) := fun _ => rfl
theorem disarm (k : TimerId) : Statement (.disarm k) := fun _ => rfl
theorem deliver : Statement .deliver := fun _ => rfl

end Sys2Proof.Laws.EncodingLiesInRow
end

