-- ==== Sys2Proof/Tests/Slice0.lean ====
section
/-! SUPPORT. The model's own tests, with expected results taken from the tables and the vectors V1 to V61 and P1 to P4 of
spec/95_test_vectors.md, and for every statement with hypotheses a witness: a state and operands that meet
them together, each clause at a boundary of its range. -/

namespace Sys2Proof.Tests

open Sys2Proof.Machine

/-! ### Small states -/

def steady (b : Bool) : Signal := .toggling b []

/-- Drive 0 of spec/95 section 2.5: ready, at track zero, no index pulse, present, not protected. -/
def drive0 (edges : List Nat) : Drive :=
  ⟨⟨.listed edges, steady true, steady true, steady false, steady true, steady false⟩, []⟩

/-- Drive 1 of spec/95 section 2.5: not ready, present, write-protected. -/
def drive1 : Drive := ⟨⟨.listed [], steady false, steady false, steady false, steady true, steady true⟩, []⟩

/-- Idle, no drive selected, the drives of section 2.5, with these transitions on drive 0. -/
def idle (edges : List Nat) : State := { State.reset with drives := [drive0 edges, drive1] }

def idle0 (edges : List Nat) : State := { idle edges with driveSel := some 0 }

/-- Searching with the separator's clock at `c`, one bit cell behind `NOW`; `T_LOCK` has just fired. -/
def searching (edges : List Nat) (c cnt : Nat) : State :=
  { idle0 edges with
    mode := .reading, syncCnt := cnt, pllTime := c, now := c + 200, gate := .blocked .wrControl,
    timers := ⟨some 1000001000, none, none, none⟩ }

/-- Waiting for the mark. -/
def marking (edges : List Nat) (c : Nat) : State :=
  { searching edges c 29 with syncState := .searchingMark }

/-- Locked at `NOW = PLL_TIME = c`, the last byte read; `T_BYTE` has just fired. -/
def lockedAt (edges : List Nat) (c : Nat) : State :=
  { searching edges c 29 with
    syncState := .locked, dataSr := 0x81, clkSr := 0xFF, now := c, gate := .opened }

/-- The bytes 0x81 and 0x12 of the track of spec/95 section 3. -/
def markEdges : List Nat := [26650, 26750, 26850, 27050, 27250, 27450, 27650, 27850, 28050, 28150]
def byteEdges : List Nat := [28250, 28450, 28650, 28850, 28950, 29050, 29250, 29450, 29550, 29650]

/-- The state an operation answers. -/
def after (i : Instr) (s : State) : State :=
  match exec i s with
  | .next t    => t
  | .fault _   => s
  | .refused _ => s

/-- The state a step answers. -/
def stepped (s : State) : State :=
  match step s with
  | .next t    => t
  | .fault _   => s
  | .refused _ => s

/-! ### Well-formedness -/

theorem test_wf_control : (Instr.wrControl 0x17).wf = true ∧ (Instr.wrControlWren 0x08).wf = true := by decide

/-- A control byte with bit 3 set is no operand of `WR_CONTROL` (R58). -/
theorem test_wf_refuses_control_with_wren : (Instr.wrControl 0x08).wf = false ∧ (Instr.wrControl 0xFF).wf = false := by
  decide

/-- A control byte with bit 3 clear is no operand of `WR_CONTROL.WREN` (R58). -/
theorem test_wf_refuses_wren_without_bit3 :
    (Instr.wrControlWren 0x00).wf = false ∧ (Instr.wrControlWren 0xF7).wf = false := by decide

/-! ### Decoding: words written out from R47, R48, R50, R53, R58: `W`, `PORT`, `DATA` -/

theorem test_decode_rdStatus : decodeTableWord 16 0b0_00_00000000 = some .rdStatus := by decide
theorem test_decode_wrControl : decodeTableWord 16 0b1_00_00010100 = some (.wrControl 0x14) := by decide
theorem test_decode_wrControlWren : decodeTableWord 16 0b1_00_11111000 = some (.wrControlWren 0xF8) := by decide
theorem test_decode_rdDrvstat : decodeTableWord 16 0b0_01_10101010 = some .rdDrvstat := by decide
theorem test_decode_wrDrvsel : decodeTableWord 16 0b1_01_00001001 = some (.wrDrvsel 0x09) := by decide
theorem test_decode_rdData : decodeTableWord 16 0b0_10_00000000 = some .rdData := by decide
theorem test_decode_wrData : decodeTableWord 16 0b1_10_01010101 = some (.wrData 0x55) := by decide
theorem test_decode_notDecoded :
    decodeTableWord 16 0b0_11_00000000 = some (.notDecoded false) ∧
    decodeTableWord 16 0b1_11_10000001 = some (.notDecoded true) := by decide
theorem test_decode_tickTimeout : decodeTableWord 8 0b000 = some .tickTimeout := by decide
theorem test_decode_tickLock : decodeTableWord 8 0b001 = some .tickLock := by decide
theorem test_decode_tickByte : decodeTableWord 8 0b010 = some .tickByte := by decide
theorem test_decode_tickAux : decodeTableWord 8 0b011 = some .tickAux := by decide
theorem test_decode_reset : decodeTableWord 8 0b100 = some .reset := by decide

/-- The codes 5 to 7 are not used (R53). -/
theorem test_decode_unused_events :
    decode [5] = .error (.unusedEvent 5) ∧ decode [6] = .error (.unusedEvent 6) ∧
    decode [7] = .error (.unusedEvent 7) := ⟨rfl, rfl, rfl⟩

/-- Bits outside the two formats, and other lengths, are rejected by name. -/
theorem test_decode_rejects :
    decode [8] = .error (.evCodeTooWide 8) ∧ decode [0, 8] = .error (.busWordTooWide 8) ∧
    decode [] = .error (.wrongLength 0) ∧ decode [0, 0, 0] = .error (.wrongLength 3) := ⟨rfl, rfl, rfl, rfl⟩

/-- The ten operations of no bits are never decoded. -/
theorem test_decode_micro : decodeTableWord 0 0 = none ∧ encode .sep = none := by decide

/-- No two rows of one format overlap (R58, R53). -/
theorem test_rows_do_not_overlap :
    ([Instr.rdStatus, .wrControl 0, .wrControlWren 0, .rdDrvstat, .wrDrvsel 0, .rdData, .wrData 0, .notDecoded false,
      .tickTimeout, .tickLock, .tickByte, .tickAux, .reset].filterMap Instr.row).Pairwise
      (fun r r' => r.width ≠ r'.width ∨ r.value &&& r'.mask ≠ r'.value &&& r.mask) := by decide

/-! ### The separator, the accumulators, the CRC -/

/-- V4: an edge on the last tick of the window. -/
theorem test_sep_last_tick :
    (after .sep { idle0 [1099] with pllTime := 1000 }).microBit = true ∧
    (after .sep { idle0 [1099] with pllTime := 1000 }).pllTime = 1149 := by decide

/-- V5: an edge on the next boundary belongs to the next window. -/
theorem test_sep_next_boundary :
    (after .sep { idle0 [1100] with pllTime := 1000 }).microBit = false ∧
    (after .sep (after .sep { idle0 [1100] with pllTime := 1000 })).pllTime = 1150 := by decide

/-- V18: the cell (1, 1). -/
theorem test_shiftCell_ones :
    let s := after (.shiftCell false) { idle0 [1050, 1150] with pllTime := 1000, clkSr := 0x7F, dataSr := 0x40 }
    s.clkSr = 0xFF ∧ s.dataSr = 0x81 ∧ s.microBit = true := by decide

/-- V19: the cell (0, 0); the old bit 7 is lost. -/
theorem test_shiftCell_zeros :
    let s := after (.shiftCell true) { idle [] with clkSr := 0xFF, dataSr := 0x81, crcEn := true, crc := 0x8000 }
    s.clkSr = 0xFE ∧ s.dataSr = 0x02 ∧ s.crc = 0x1021 := by decide

/-- V26. -/
theorem test_crcStep : (after (.crcStep true) { idle [] with crc := 0x1021 }).crc = 0x3063 := by decide

/-- V30: the bytes of "123456789", most significant bit first, from 0x0000. -/
theorem test_crc_sequence :
    ([0x31, 0x32, 0x33, 0x34, 0x35, 0x36, 0x37, 0x38, 0x39].foldl (fun c (b : Byte) =>
      [7, 6, 5, 4, 3, 2, 1, 0].foldl (fun c k => crcNext c (b.getLsbD k)) c) (0 : CrcWord)) = 0x31C3 := by
  decide +kernel

/-- P2 at 28200: the stalled `IN DATA` completes with 0x12. -/
theorem test_byteReady_resumes :
    let s := after .byteReady { idle [] with now := 28200, dataSr := 0x12, gate := .blocked .rdData }
    s.history = [.answer 28200 2 0x12] ∧ s.consumed = true ∧ s.gate = .opened := by decide

/-- P2 at 28200: 0x12 is assembled, the CRC is 0x3273, the next tick is at 29800. -/
theorem test_tickByte :
    let s := after .tickByte { lockedAt byteEdges 28200 with crcEn := true }
    s.dataSr = 0x12 ∧ s.crc = 0x3273 ∧ s.timers.byte = some 29800 ∧ s.overrun = false ∧ s.consumed = false := by
  decide

/-- P4 at 28200: the mark byte was not read. -/
theorem test_tickByte_overrun :
    (after .tickByte { lockedAt byteEdges 28200 with consumed := false }).overrun = true := by decide

/-! ### The synchronizer -/

/-- P3 at 6900: the winning pair is (0, 1), so one more half-bit is thrown away. -/
theorem test_tickLock_discards :
    let s := after .tickLock { searching [6850, 7050] 6700 28 with clkSr := 0xFF }
    s.syncState = .searchingMark ∧ s.syncCnt = 29 ∧ s.pllTime = 7000 ∧ s.timers.lock = some 7200 ∧ s.clkSr = 0 := by
  decide

/-- P2 at 26800: the mark byte 0x81 is found, and the stalled `OUT CTRL` completes. -/
theorem test_tickLock_mark :
    let s := after .tickLock { marking markEdges 26600 with crcEn := true }
    s.dataSr = 0x81 ∧ s.pllTime = 28200 ∧ s.timers = ⟨some 1000001000, none, some 28200, none⟩ ∧
      s.syncState = .locked ∧ s.crc = 0 ∧ s.consumed = false ∧ s.gate = .opened := by decide

/-- R74: the CRC is not touched. -/
theorem test_syncReset :
    after .syncReset { lockedAt [] 28200 with crc := 0x011D } =
      { lockedAt [] 28200 with crc := 0x011D, syncState := .searchingSync, syncCnt := 0, clkSr := 0, dataSr := 0 } := by
  decide

/-! ### The scheduler and reset -/

/-- V58. -/
theorem test_arm : (after (.arm .byte (28200 - 26800)) { idle [] with now := 26800 }).timers.byte = some 28200 := by decide

/-- R81. -/
theorem test_disarm :
    (after (.disarm .lock) { idle [] with timers := ⟨some 1, some 2, some 3, some 4⟩ }).timers =
      ⟨some 1, none, some 3, some 4⟩ := by decide

/-- R84: at a tie the timeout timer goes first, and V61: its callback does nothing. -/
theorem test_deliver_tie :
    stepped { searching [] 1000 5 with timers := ⟨some 1200, some 1200, none, none⟩ } =
      { searching [] 1000 5 with timers := ⟨none, some 1200, none, none⟩ } := by decide

/-- R69's worked example: the tick at 1200 gets the pair (1, 0), counts 1 and rearms for 1400. -/
theorem test_deliver_lock :
    let s := after .deliver { searching [1050, 1250] 1000 0 with timers := ⟨none, some 1200, none, none⟩ }
    s.syncCnt = 1 ∧ s.pllTime = 1200 ∧ s.timers.lock = some 1400 ∧ s.now = 1200 := by decide

/-- R87 and R88. -/
theorem test_idle_callbacks :
    after .tickTimeout (lockedAt byteEdges 28200) = lockedAt byteEdges 28200 ∧
    after .tickAux (lockedAt byteEdges 28200) = lockedAt byteEdges 28200 := by decide

/-- V60. -/
theorem test_reset :
    after .reset { lockedAt [] 33000 with
      crc := 0x011D, overrun := true, gate := .blocked .rdData, timers := ⟨some 9, none, some 33000, none⟩ } =
      { idle [] with now := 33000 } := by decide

/-! ### The host handshake -/

/-- V41 and V40. -/
theorem test_rdStatus :
    (after .rdStatus (idle0 [])).history = [.answer 0 0 0x60] ∧
    (after .rdStatus (idle [])).history = [.answer 0 0 0x00] := by decide

/-- V42, and V43 with both polarities low. -/
theorem test_rdDrvstat :
    (after .rdDrvstat (idle0 [])).history = [.answer 0 1 0x40] ∧
    (after .rdDrvstat { idle [] with cfg := { Config.vectors with polPresent := .low, polWprot := .low } }).history =
      [.answer 0 1 0xC0] := by decide

/-- V44 and V46: a drive that is not ready, and bit 3 clear. -/
theorem test_wrDrvsel_none :
    (after (.wrDrvsel 0x09) (idle0 [])).driveSel = none ∧ (after (.wrDrvsel 0x07) (idle0 [])).driveSel = none ∧
    (after (.wrDrvsel 0x0F) (idle0 [])).driveSel = none := by decide

/-- V48: bits 7:4 are ignored. -/
theorem test_wrDrvsel_some : (after (.wrDrvsel 0xF8) (idle [])).driveSel = some 0 := by decide

/-- V49. -/
theorem test_wrControl_forwards :
    after (.wrControl 0x03) { idle0 [] with crcEn := true } =
      { idle0 [] with history := [.driveCmd 0 0 true true] } := by decide

/-- V52: as `#04`, `READ_ON`, with no `DriveCmd` when no drive is selected. -/
theorem test_wrControl_reads :
    after (.wrControl 0xE4) { idle [] with now := 1000 } = after .readOn { idle [] with now := 1000 } := by decide

/-- P2 at 1000. -/
theorem test_readOn :
    let s := after .readOn { idle0 [] with now := 1000 }
    s.pllTime = 1000 ∧ s.timers = ⟨some 1000001000, some 1200, none, none⟩ ∧ s.gate = .blocked .wrControl ∧
      s.mode = .reading := by decide

/-- R40: a command moves a drive to the next view prepared for it. -/
theorem test_react :
    let d : Drive := { drive0 [7] with later := [(drive0 [9]).view] }
    (after (.wrControl 0x03) { idle0 [] with drives := [d, drive1] }).drives = [drive0 [9], drive1] := by decide

/-- P2 at 31500. -/
theorem test_readOff :
    let s := after .readOff { lockedAt [] 33000 with
      now := 31500, crc := 0x011D, crcEn := true, consumed := false, timers := ⟨some 9, none, some 33000, none⟩ }
    s = { idle0 [] with now := 31500, pllTime := 33000, crc := 0x011D, crcEn := true } := by decide

/-- V55. -/
theorem test_rdData_returns :
    let s := after .rdData { lockedAt [] 26850 with consumed := false }
    s.history = [.answer 26850 2 0x81] ∧ s.consumed = true ∧ s.gate = .opened := by decide

/-- V57. -/
theorem test_rdData_stalls : after .rdData (idle []) = { idle [] with gate := .blocked .rdData } := by decide

/-- V53. -/
theorem test_wren_refused :
    exec (.wrControlWren 0x08) (idle []) = .refused .writeEnable ∧
    exec (.wrControl 0x1F) (idle []) = .refused .writeEnable := ⟨rfl, rfl⟩

/-- V54. -/
theorem test_wrData_refused : exec (.wrData 0x55) (idle []) = .refused .dataPortWrite := rfl

/-- R104. -/
theorem test_notDecoded : after (.notDecoded true) (idle0 []) = idle0 [] := by decide

/-! ### The step -/

/-- An access of the host goes by its address (R32), and its time becomes `NOW`. -/
theorem test_step_access :
    stepped { idle [] with cfg := { Config.vectors with portBase := 0xE0 }, inputs := [.access 50 true 0xE1 0x08] } =
      { idle0 [] with cfg := { Config.vectors with portBase := 0xE0 }, now := 50 } := by decide

/-- R43: a timer due at the very time of an access goes first. -/
theorem test_step_timer_first :
    let s := { lockedAt byteEdges 28200 with timers := ⟨none, none, some 28200, none⟩, inputs := [.access 28200 false 2 0] }
    stepped s = { after .deliver s with inputs := [.access 28200 false 2 0] } ∧ (stepped s).consumed = false := by decide

/-- R89: while the gate is closed the host's access waits, and the reset input acts. -/
theorem test_step_held :
    let s := { idle [] with gate := .blocked .rdData, inputs := [.access 5 false 0 0, .reset 9 false] }
    stepped s = { idle [] with now := 9, inputs := [.access 5 false 0 0] } := by decide

/-- R39: a signal that toggles at 5 and 9, at and around its toggles. -/
theorem test_signal :
    [4, 5, 8, 9].map (Signal.toggling false [5, 9]).level = [false, true, true, false] := by decide

/-- From the reset state a placed access runs next although nothing is known of the drives. -/
theorem test_reset_runs :
    (∃ t, step (State.reset.withFetchWord 16 0x508) = .next t) ∧
    (∃ t, step (State.reset.withFetchWord 16 0x404) = .next t ∧ t.mode = .reading) := ⟨⟨_, rfl⟩, _, rfl, rfl⟩

/-- A placed event and a placed access run next, also where another timer is armed for this time. -/
theorem test_placed :
    let s := { lockedAt byteEdges 28200 with timers := ⟨some 28200, none, none, none⟩ }
    (stepped (s.withFetchWord 8 2)).dataSr = 0x12 ∧
    stepped (s.withFetchWord 8 4) = { idle byteEdges with now := 28200 } ∧
    (stepped (s.withFetchWord 16 0x100)).history = [.answer 28200 1 0x40] := by decide


/-! ### Witnesses of the hypotheses of the statements -/

/-- `n` operations `i` in a row. -/
def repeated (i : Instr) (s : State) : Nat → State
  | 0     => s
  | n + 1 => after i (repeated i s n)

/-- The state fed its own CRC bits, most significant first (`CrcOfItsOwnBitsIsZero`). -/
def fedItself (s : State) : Nat → State
  | 0     => s
  | n + 1 => after (.crcStep (s.crc.getLsbD (15 - n))) (fedItself s n)

/-- The preamble's transitions (spec/95 section 3), as many as 29 cells need. -/
def preamble : List Nat := (List.range 30).map fun k => 1050 + 200 * k

/-- ResetIsIdempotentAndAlwaysEnabled: two states that agree on `NOW` and differ in the block, and a reset raised at the
very time a timer is due. -/
theorem witness_reset :
    (idle0 []).now = (idle []).now ∧ idle0 [] ≠ idle [] ∧ exec .reset (idle0 []) = .next (after .reset (idle0 [])) ∧
    (let s := { idle0 [] with timers := ⟨none, some 0, none, none⟩, gate := .blocked .rdData,
                              inputs := [.reset 0 true] }
     (∀ k f, s.timers.get k = some f → s.now ≤ f) ∧ s.inputs = [.reset s.now true]) := by
  refine ⟨rfl, by decide, rfl, fun k f _ => Nat.zero_le f, rfl⟩

/-- NextTransitionIsTheNearestEdge: an edge at the very time, an edge after it, none left; a drive whose stream is free;
and no drive selected. -/
theorem witness_nextTransition :
    (idle0 [7, 9]).driveSel = some 0 ∧ viewOf (idle0 [7, 9]) 0 = some (drive0 [7, 9]).view ∧
    nextTransition (idle0 [7, 9]) 7 = some 7 ∧ nextTransition (idle0 [7, 9]) 8 = some 9 ∧
    nextTransition (idle0 [7, 9]) 10 = none ∧
    viewOf { State.reset with driveSel := some 1 } 1 = some (Drive.free 1).view ∧ (idle [7]).driveSel = none := by decide

/-- SepRecoversOneHalfBit: the window's first and last tick; the next boundary, and no edge at all. -/
theorem witness_sep :
    nextTransition (idle0 [0]) 0 = some 0 ∧ nextTransition (idle0 [99]) 0 = some 99 ∧ 99 < 0 + (idle0 []).cfg.halfBit ∧
    (∀ e, nextTransition (idle0 [100]) 0 = some e → 0 + (idle0 []).cfg.halfBit ≤ e) ∧
    (∀ e, nextTransition (idle0 []) 0 = some e → 0 + (idle0 []).cfg.halfBit ≤ e) := by
  refine ⟨by decide, by decide, by decide, fun e h => ?_, fun e h => ?_⟩
  · have : nextTransition (idle0 [100]) 0 = some 100 := by decide
    rw [this] at h; injection h with h; subst h; decide
  · have : nextTransition (idle0 []) 0 = none := by decide
    rw [this] at h; cases h

/-- SepClockAdvanceIsBounded, at `H = 1`. -/
theorem witness_sepAdvance :
    let s := { idle0 [3] with cfg := { Config.vectors with halfBit := 1 } }
    1 ≤ s.cfg.halfBit ∧ ∀ k, exec .sep (repeated .sep s k) = .next (repeated .sep s (k + 1)) :=
  ⟨by decide, fun _ => rfl⟩

/-- SepNeverReportsAnEdgeTwice: the very next query (V8, two edges in one window), and a later one, after a 0. -/
theorem witness_sepTwice :
    let s := { idle0 [1010, 1070] with pllTime := 1000 }
    let u := { idle0 [1010, 1250] with pllTime := 1000 }
    1 ≤ s.cfg.halfBit ∧ 1 ≤ u.cfg.halfBit ∧
    (∀ n, exec .sep (repeated .sep s n) = .next (repeated .sep s (n + 1))) ∧
    (∀ n, exec .sep (repeated .sep u n) = .next (repeated .sep u (n + 1))) ∧
    (nextTransition s s.pllTime = some 1010 ∧ (repeated .sep s 1).microBit = true ∧
      nextTransition (repeated .sep s 1) (repeated .sep s 1).pllTime = some 1070) ∧
    (nextTransition u u.pllTime = some 1010 ∧ (repeated .sep u 1).microBit = true ∧
      (repeated .sep u 2).microBit = false ∧
      nextTransition (repeated .sep u 2) (repeated .sep u 2).pllTime = some 1250) :=
  ⟨by decide, by decide, fun _ => rfl, fun _ => rfl, by decide, by decide⟩

/-- SearchTickCountsUnequalPairs: an equal pair at the count 28, the count 27, and the count 28 with either data
half-bit. -/
theorem witness_search :
    ((searching [] 1000 28).mode = .reading ∧ (searching [] 1000 28).syncState = .searchingSync) ∧
    (sep (searching [] 1000 28)).1 = (sep (sep (searching [] 1000 28)).2).1 ∧
    ((sep (searching [1050] 1000 27)).1 ≠ (sep (sep (searching [1050] 1000 27)).2).1 ∧
      (searching [1050] 1000 27).syncCnt + 1 ≠ 29) ∧
    ((sep (searching [1050] 1000 28)).1 ≠ (sep (sep (searching [1050] 1000 28)).2).1 ∧
      (searching [1050] 1000 28).syncCnt + 1 = 29 ∧ (sep (sep (searching [1050] 1000 28)).2).1 = false) ∧
    ((sep (searching [1150] 1000 28)).1 ≠ (sep (sep (searching [1150] 1000 28)).2).1 ∧
      (sep (sep (searching [1150] 1000 28)).2).1 = true) := by decide

/-- MarkTickFindsTheFirstDataOne and MarkIsAnnouncedAheadOfTheByteTimer: a cell (1, 0), and the cell of the mark. -/
theorem witness_mark :
    let s := marking [26450] 26400
    let m := marking markEdges 26600
    (s.mode = .reading ∧ s.syncState = .searchingMark ∧ (shiftCell false s).1 = false) ∧
    (m.mode = .reading ∧ m.syncState = .searchingMark ∧ (shiftCell false m).1 = true) ∧ 1 ≤ m.cfg.halfBit ∧
    m.now = m.pllTime + 2 * m.cfg.halfBit ∧ exec .tickLock m = .next (after .tickLock m) :=
  ⟨by decide, by decide, by decide, by decide, rfl⟩

/-- LockTickIsIdleOutsideTheSearch. -/
theorem witness_lockTickIdle : (idle []).mode ≠ .reading ∧ (lockedAt [] 0).syncState = .locked := by decide

/-- LockTakesTwentyNineUnequalPairs: the preamble of spec/95 section 3. -/
theorem witness_lock :
    let s := searching preamble 1000 0
    s.mode = .reading ∧ s.syncState = .searchingSync ∧ s.syncCnt = 0 ∧
    ∀ k, k < 29 → exec .tickLock (repeated .tickLock s k) = .next (repeated .tickLock s (k + 1)) ∧
      (sep (repeated .tickLock s k)).1 ≠ (sep (sep (repeated .tickLock s k)).2).1 := by
  have h : ∀ k, k < 29 → (sep (repeated .tickLock (searching preamble 1000 0) k)).1 ≠
      (sep (sep (repeated .tickLock (searching preamble 1000 0) k)).2).1 := by decide +kernel
  exact ⟨rfl, rfl, rfl, fun k hk => ⟨rfl, h k hk⟩⟩

/-- SynchronizerNeverStepsBackByItself, OverrunIsStickyUntilReset, WritePathStateIsNeverEntered, DriveSelectionPersists,
ParametersAndMediumAreReadOnly: a tick that assembles a byte. -/
theorem witness_tick :
    let s := { lockedAt byteEdges 28200 with overrun := true }
    exec .tickByte s = .next (after .tickByte s) ∧ (∀ v, Instr.tickByte ≠ .wrControl v) ∧
    (∀ v, Instr.tickByte ≠ .wrDrvsel v) ∧ Instr.tickByte ≠ .readOn ∧ Instr.tickByte ≠ .readOff ∧
    Instr.tickByte ≠ .syncReset ∧ Instr.tickByte ≠ .reset ∧ s.overrun = true ∧ s.mode ≠ .writing ∧
    s.crcOut = false ∧ s.crcErr = false ∧ s.driveSel ≠ some 1 := by
  refine ⟨rfl, ?_, ?_, ?_, ?_, ?_, ?_, rfl, ?_, rfl, rfl, ?_⟩ <;> simp [lockedAt, searching, idle0]

/-- CrcChangesOnlyByItsStepAndReset: a tick with `CRC_EN` 0, and an operation outside the three with `CRC_EN` 1. -/
theorem witness_crcFrame :
    let s := lockedAt byteEdges 28200
    let m := { marking markEdges 26600 with crcEn := true }
    (exec .tickByte s = .next (after .tickByte s) ∧ s.crcEn = false ∧ ∀ d, Instr.tickByte ≠ .crcStep d) ∧
    (exec .tickLock m = .next (after .tickLock m) ∧ m.crcEn = true ∧ Instr.tickLock ≠ .shiftCell true ∧
      Instr.tickLock ≠ .tickByte ∧ Instr.tickLock ≠ .deliver ∧ Instr.tickLock ≠ .reset) := by
  refine ⟨⟨rfl, rfl, ?_⟩, rfl, rfl, ?_, ?_, ?_, ?_⟩ <;> simp

/-- ParametersAndMediumAreReadOnly: a control write that is forwarded to drive 0 only, and one with no drive selected. -/
theorem witness_medium :
    exec (.wrControl 0x03) (idle0 []) = .next (after (.wrControl 0x03) (idle0 [])) ∧ (idle0 []).driveSel ≠ some 1 ∧
    exec (.wrControl 0x03) (idle []) = .next (after (.wrControl 0x03) (idle [])) ∧ (idle []).driveSel = none :=
  ⟨rfl, by decide, rfl, rfl⟩

/-- CrcStepIsLinear. -/
theorem witness_crcLinear :
    let s := { idle [] with crc := 0x8001 }
    let s' := { idle [] with crc := 0x0003 }
    let s'' := { idle [] with crc := 0x8002 }
    s''.crc = s.crc ^^^ s'.crc ∧ exec (.crcStep true) s = .next (after (.crcStep true) s) ∧
    exec (.crcStep false) s' = .next (after (.crcStep false) s') ∧
    exec (.crcStep (xor true false)) s'' = .next (after (.crcStep true) s'') := ⟨by decide, rfl, rfl, rfl⟩

/-- CrcOfItsOwnBitsIsZero, from 0xFFFF. -/
theorem witness_crcFed :
    let s := { idle [] with crc := 0xFFFF }
    ∀ k, k < 16 → exec (.crcStep ((fedItself s 0).crc.getLsbD (15 - k))) (fedItself s k) =
      .next (fedItself s (k + 1)) := fun _ _ => rfl

/-- ByteTickAssemblesOneByte, AssembledByteIsItsEightDataHalfBits, NextByteTickKeepsTheDeadline: a tick while locked at
the separator's clock, one while searching, one while idle. -/
theorem witness_byteTick :
    let s := lockedAt byteEdges 28200
    (s.mode = .reading ∧ s.syncState = .locked ∧ 1 ≤ s.cfg.halfBit ∧ s.now = s.pllTime ∧
      exec .tickByte s = .next (after .tickByte s)) ∧
    (marking [] 0).syncState ≠ .locked ∧ (idle []).mode ≠ .reading :=
  ⟨⟨rfl, rfl, by decide, rfl, rfl⟩, by decide, by decide⟩

/-- ByteReadyAnnouncesAndResumes: the gate open, and held by either access. -/
theorem witness_byteReady :
    (lockedAt [] 0).gate = .opened ∧ (after .rdData (lockedAt [] 0)).gate = .blocked .rdData ∧
    (marking [] 0).gate = .blocked .wrControl := by decide

/-- TwoByteReadysWithoutAReadOverrun. -/
theorem witness_overrun :
    let s := lockedAt byteEdges 28200
    let t := after .tickByte s
    s.mode = .reading ∧ s.syncState = .locked ∧ s.gate = .opened ∧ s.consumed = true ∧
    exec .tickByte s = .next t ∧ exec .tickByte t = .next (after .tickByte t) := ⟨rfl, rfl, rfl, rfl, rfl, rfl⟩

/-- HeldReadNeverOverruns. -/
theorem witness_heldRead :
    let s := after .rdData (lockedAt byteEdges 28200)
    s.mode = .reading ∧ s.syncState = .locked ∧ s.gate = .blocked .rdData ∧ s.consumed = true ∧
    exec .tickByte s = .next (after .tickByte s) := ⟨rfl, rfl, rfl, rfl, rfl⟩

/-- ArmAndDisarmWriteOneTimer: two timers that differ. -/
theorem witness_otherTimer : TimerId.timeout ≠ TimerId.lock := by decide

/-- DeliverFiresTheEarliestTimer: a tie, which the timeout timer wins. -/
theorem witness_deliver :
    let s := { idle [] with timers := ⟨some 7, some 7, some 9, none⟩ }
    s.timers.get .timeout = some 7 ∧
    ∀ j g, s.timers.get j = some g → 7 < g ∨ (7 = g ∧ TimerId.rank .timeout ≤ j.rank) := by
  refine ⟨rfl, fun j g h => ?_⟩
  cases j <;> simp [Timers.get] at h <;> subst h <;> decide

/-- QuietBlockStaysAsItIs. -/
theorem witness_quiet : (∀ k, (idle []).timers.get k = none) ∧ (idle []).inputs = [] :=
  ⟨fun k => by cases k <;> rfl, rfl⟩

/-- ControlWriteActsOnItsFields: `RDEN` 1 and 0, in `Idle` and in `Reading`. -/
theorem witness_control :
    (0x04 : Byte).getLsbD 3 = false ∧ (0x04 : Byte).getLsbD 2 = true ∧ (0xE3 : Byte).getLsbD 3 = false ∧
    (0xE3 : Byte).getLsbD 2 = false ∧ (idle0 []).mode = .idle ∧ (lockedAt [] 0).mode = .reading := by decide

/-- DriveSelectWriteSelectsAReadyDrive: bit 3 clear; a ready drive 0; drive 1, the last one fitted, not ready; drive 2,
the first one not fitted. -/
theorem witness_select :
    (0x07 : Byte).getLsbD 3 = false ∧
    ((0x08 : Byte).getLsbD 3 = true ∧ (0 : Fin 8).val = (0x08 : Byte).toNat % 8 ∧ (0 : Fin 8).val < (idle []).cfg.nDrives ∧
      driveSignal (idle []) 0 (·.ready) 0 = true) ∧
    ((0x09 : Byte).getLsbD 3 = true ∧ (1 : Fin 8).val = (0x09 : Byte).toNat % 8 ∧
      ¬((1 : Fin 8).val < (idle []).cfg.nDrives ∧ driveSignal (idle []) 1 (·.ready) 0 = true)) ∧
    ((2 : Fin 8).val = (0x0A : Byte).toNat % 8 ∧ ¬((2 : Fin 8).val < (idle []).cfg.nDrives)) := by decide

/-- DataReadReturnsOrHolds: an unread byte, and none. -/
theorem witness_dataRead : (after .tickByte (lockedAt byteEdges 28200)).consumed = false ∧ (idle []).consumed = true := by
  decide

/-- UndecodedAccessChangesNothing: the address below the three ports, and the one above. -/
theorem witness_undecoded :
    let s (a : Nat) : State :=
      { idle [] with cfg := { Config.vectors with portBase := 0x10 }, inputs := [.access 5 false a 0],
                     timers := ⟨none, some 6, none, none⟩ }
    (0x0F < (s 0x0F).cfg.portBase ∧ (s 0x13).cfg.portBase + 2 < 0x13) ∧ (s 0x0F).gate = .opened ∧
    (s 0x0F).inputs = .access 5 false 0x0F 0 :: [] ∧
    ∀ k f, (s 0x0F).timers.get k = some f → max (s 0x0F).now 5 < f := by
  refine ⟨by decide, rfl, rfl, fun k f h => ?_⟩
  cases k <;> simp [Timers.get] at h
  subst h; decide

/-- WritePathIsRefused and IgnoredBitsHaveNoEffect. -/
theorem witness_bytes :
    (0x08 : Byte).getLsbD 3 = true ∧ (0xE4 : Byte).extractLsb' 0 5 = (0x04 : Byte).extractLsb' 0 5 ∧
    (0xF8 : Byte).extractLsb' 0 4 = (0x08 : Byte).extractLsb' 0 4 := by decide

/-- StepRunsTheDecodedOperation: nothing to fetch; an access, each of whose conditions holds, with a timer due one tick
after it. -/
theorem witness_step :
    let s := { idle0 [] with inputs := [.access 5 false 0 0], timers := ⟨none, some 6, none, none⟩ }
    fetch (idle []) = none ∧ fetch s = some (busBytes 0, { s with now := 5, inputs := [] }) ∧
    decode (busBytes (busWord false (portOf s.cfg 0) 0)) = .ok .rdStatus ∧ s.gate = .opened ∧
    s.inputs = .access 5 false 0 0 :: [] ∧ ∀ k f, s.timers.get k = some f → max s.now 5 < f := by
  refine ⟨by decide, by decide, rfl, rfl, rfl, fun k f h => ?_⟩
  cases k <;> simp [Timers.get] at h
  subst h; decide

/-- DueTimersGoBeforeAHostAccess: the timer due at the very time of the access. -/
theorem witness_dueTimer :
    let s := { idle0 [] with inputs := [.access 5 false 0 0], timers := ⟨none, some 5, none, none⟩ }
    s.inputs = .access 5 false 0 0 :: [] ∧ s.timers.get .lock = some 5 ∧ 5 ≤ max s.now 5 ∧ s.gate = .opened := by decide

/-- HeldHostIssuesNothing: a held host, while a reset comes. -/
theorem witness_held :
    let s := { idle [] with gate := .blocked .rdData, inputs := [.access 5 false 0 0, .reset 9 false] }
    s.gate ≠ .opened ∧ step s = .next (stepped s) := ⟨by decide, rfl⟩

/-- OnlyTheHostClosesTheGate: each of the three operations. -/
theorem witness_gate :
    (idle []).gate = .opened ∧ exec .rdData (idle []) = .next (after .rdData (idle [])) ∧
    (after .rdData (idle [])).gate ≠ .opened ∧ (after .readOn (idle [])).gate ≠ .opened ∧
    (after (.wrControl 0x04) (idle [])).gate ≠ .opened := ⟨rfl, rfl, by decide, by decide, by decide⟩

/-- VirtualTimeNeverDecreases: a delivery, and an access. -/
theorem witness_time :
    let s := { idle0 [] with inputs := [.access 5 false 0 0] }
    let d := { idle0 [] with timers := ⟨none, some 6, none, none⟩ }
    (step d = .next (stepped d) ∧ fetch d = none) ∧
    (step s = .next (stepped s) ∧ nextInput s = some (.access 5 false 0 0, []) ∧ fetch s ≠ none) :=
  ⟨⟨rfl, by decide⟩, rfl, rfl, by decide⟩

/-- PlacedWordRunsNext, at the greatest word. -/
theorem witness_placed : 2047 < 2048 ∧ decodeTableWord 16 2047 = some (.notDecoded true) := by decide

/-- HiddenRegistersAreNeverObserved: a step that answers, and one that is refused. -/
theorem witness_hidden :
    step (idle []) = .next (stepped (idle [])) ∧
    step { idle [] with inputs := [.access 5 true 2 0x55] } = .refused .dataPortWrite := ⟨rfl, rfl⟩

/-- DecodeOfEncodeIsTheOperation: an operation of each format. -/
theorem witness_encode :
    (Instr.wrControlWren 0xFF).wf = true ∧ encode (.wrControlWren 0xFF) = some [0xFF, 0x04] ∧
    Instr.reset.wf = true ∧ encode .reset = some [0x04] := by decide

/-- EveryBusWordFallsInOneRow: an operation whose row a word falls in. -/
theorem witness_row :
    (Instr.wrControl 0x14).row = some ⟨11, 0x708, 0x400⟩ ∧ (0x414 : BusWord).toNat &&& 0x708 = 0x400 := by decide

/-- The state of P5 after its first line: a read with no drive selected, the host's next access pending. -/
def noDrive : State :=
  { idle [] with
    mode := .reading, pllTime := 1000, now := 1000, gate := .blocked .wrControl,
    timers := ⟨some 1000001000, some 1200, none, none⟩, inputs := [.access 1000 false 2 0] }

theorem noDrive_inv : Inv noDrive where
  params := by decide
  notWriting := by decide
  crcFlags := by decide
  idle := by decide
  unread := by decide
  searching := by decide
  locked := by decide
  auxIdle := by decide
  heldControl := by decide
  heldData := by decide
  timersAhead := fun k f h => by cases k <;> simp [noDrive, Timers.get] at h <;> subst h <;> decide
  counting := by decide
  counted := by decide
  preamble := by decide
  driveFitted := by decide

theorem idle_inv : Inv (idle []) where
  params := by decide
  notWriting := by decide
  crcFlags := by decide
  idle := by decide
  unread := by decide
  searching := by decide
  locked := by decide
  auxIdle := by decide
  heldControl := by decide
  heldData := by decide
  timersAhead := fun k f h => by cases k <;> cases h
  counting := by decide
  counted := by decide
  preamble := by decide
  driveFitted := by decide

/-- EveryStepKeepsTheInvariant. -/
theorem witness_invariant : Inv noDrive ∧ step noDrive = .next (stepped noDrive) := ⟨noDrive_inv, rfl⟩

/-- MediumStaysAStream: a drive with two transitions. -/
theorem witness_stream : mediumWf (idle0 [7, 9]).drives ∧ step (idle0 [7, 9]) = .next (stepped (idle0 [7, 9])) := by
  refine ⟨fun d hd => ?_, rfl⟩
  simp only [idle0, idle, List.mem_cons, List.not_mem_nil, or_false] at hd
  rcases hd with rfl | rfl <;> simp [Flux.rising, risingTimes, drive0, drive1]

/-- ReadWithNoDriveHangsTheHost. -/
theorem witness_noDrive :
    Inv noDrive ∧ noDrive.mode = .reading ∧ noDrive.syncState = .searchingSync ∧ noDrive.driveSel = none ∧
    noDrive.gate = .blocked .wrControl ∧ ∀ i ∈ noDrive.inputs, i.isAccess = true :=
  ⟨noDrive_inv, rfl, rfl, rfl, rfl, by decide⟩

/-- DataReadInIdleHangsTheHost. -/
theorem witness_idleRead :
    Inv (idle []) ∧ (idle []).mode = .idle ∧ (∀ i ∈ (idle []).inputs, i.isAccess = true) ∧
    exec .rdData (idle []) = .next (after .rdData (idle [])) := ⟨idle_inv, rfl, by decide, rfl⟩

end Sys2Proof.Tests
end

section
/-! What the operations leave of the parameters and of the medium (rules R7, R33, R40), one lemma per shared operation and
field, and the obligation that rests on them. -/

namespace Sys2Proof.Machine

variable (s : State)

/-! ### The parameters and the drives after each shared operation -/

@[simp] theorem sep_cfg : (sep s).2.cfg = s.cfg := rfl
@[simp] theorem sep_drives : (sep s).2.drives = s.drives := rfl

@[simp] theorem shiftCell_cfg (b : Bool) : (shiftCell b s).2.cfg = s.cfg := by rw [shiftCell_frame]
@[simp] theorem shiftCell_drives (b : Bool) : (shiftCell b s).2.drives = s.drives := by rw [shiftCell_frame]

@[simp] theorem byteReady_cfg : (byteReady s).cfg = s.cfg := by rw [byteReady_frame]
@[simp] theorem byteReady_drives : (byteReady s).drives = s.drives := by rw [byteReady_frame]

@[simp] theorem tickByte_cfg : (tickByte s).cfg = s.cfg := by rw [tickByte_frame]
@[simp] theorem tickByte_drives : (tickByte s).drives = s.drives := by rw [tickByte_frame]

@[simp] theorem tickLock_cfg : (tickLock s).cfg = s.cfg := by rw [tickLock_frame]
@[simp] theorem tickLock_drives : (tickLock s).drives = s.drives := by rw [tickLock_frame]

@[simp] theorem callback_cfg (k : TimerId) : (callback k s).cfg = s.cfg := by
  cases k <;> simp [callback, tickTimeout, tickAux]

@[simp] theorem callback_drives (k : TimerId) : (callback k s).drives = s.drives := by
  cases k <;> simp [callback, tickTimeout, tickAux]

@[simp] theorem deliver_cfg : (deliver s).cfg = s.cfg := by
  rcases deliver_cases s with ⟨-, h⟩ | ⟨k, f, -, h⟩ <;> simp [h]

@[simp] theorem deliver_drives : (deliver s).drives = s.drives := by
  rcases deliver_cases s with ⟨-, h⟩ | ⟨k, f, -, h⟩ <;> simp [h]

@[simp] theorem resetBlock_cfg : (resetBlock s).cfg = s.cfg := rfl
@[simp] theorem resetBlock_drives : (resetBlock s).drives = s.drives := rfl

@[simp] theorem readOn_cfg : (readOn s).cfg = s.cfg := rfl
@[simp] theorem readOn_drives : (readOn s).drives = s.drives := rfl

@[simp] theorem readOff_cfg : (readOff s).cfg = s.cfg := rfl
@[simp] theorem readOff_drives : (readOff s).drives = s.drives := rfl

@[simp] theorem readData_cfg : (readData s).cfg = s.cfg := by unfold readData; split <;> rfl
@[simp] theorem readData_drives : (readData s).drives = s.drives := by unfold readData; split <;> rfl

/-! ### A forwarded command reaches the selected drive alone -/

/-- With no drive selected a forwarded command is lost (R40, R93). -/
theorem driveCmd_of_no_drive (dir step : Bool) (h : s.driveSel = none) : driveCmd dir step s = s := by
  simp [driveCmd, h]

/-- A forwarded command leaves every drive but the selected one as it was. -/
theorem driveCmd_drives_of_not_selected (dir step : Bool) (d : Fin 8) (h : s.driveSel ≠ some d) :
    (driveCmd dir step s).drives[d.val]? = s.drives[d.val]? := by
  unfold driveCmd
  cases hs : s.driveSel with
  | none => rfl
  | some e =>
    have hne : e.val ≠ d.val := fun he => h (by rw [hs, Fin.ext he])
    exact List.getElem?_modify_ne _ _ hne

@[simp] theorem latch_cfg (v : Byte) : (latch v s).cfg = s.cfg := by rw [latch_frame]

@[simp] theorem controlWrite_cfg (v : Byte) : (controlWrite v s).cfg = s.cfg := by
  rcases controlWrite_cases v s with h | ⟨-, -, h⟩ | ⟨-, -, h⟩ <;> simp [h]

/-- Of a control write, only the forwarded direction and step reach the drives: neither edge of `RDEN` does. -/
@[simp] theorem controlWrite_drives (v : Byte) :
    (controlWrite v s).drives = (driveCmd (ctlDir v) (ctlStep v) s).drives := by
  rcases controlWrite_cases v s with h | ⟨-, -, h⟩ | ⟨-, -, h⟩ <;> simp [h, latch]

/-! ### Every operation -/

variable {s}

/-- No operation writes the parameters (R7). -/
theorem exec_keeps_cfg {i : Instr} {t : State} (h : exec i s = .next t) : t.cfg = s.cfg := by
  have ht := exec_next i s t h
  cases i with
  | wrControl v => rw [ht.2, controlWrite_cfg]
  | wrControlWren v => exact ht.elim
  | wrData v => exact ht.elim
  | _ => simp [ht]

/-- No operation but a control write reaches the drives (R33, R40). -/
theorem exec_keeps_drives {i : Instr} {t : State} (h : exec i s = .next t) (hi : ∀ v, i ≠ .wrControl v) :
    t.drives = s.drives := by
  have ht := exec_next i s t h
  cases i with
  | wrControl v => exact absurd rfl (hi v)
  | wrControlWren v => exact ht.elim
  | wrData v => exact ht.elim
  | _ => simp [ht]

/-- What a control write that answers a state does to the drives is its forwarded command. -/
theorem exec_wrControl_drives {v : Byte} {t : State} (h : exec (.wrControl v) s = .next t) :
    t.drives = (driveCmd (ctlDir v) (ctlStep v) s).drives := by
  rw [(exec_next _ s t h).2, controlWrite_drives]

/-- Settles O50: the drives change only by a forwarded command, which no other operation than a control write sends and
which reaches the selected drive alone. -/
theorem parametersAndMediumAreReadOnly : Obligations.ParametersAndMediumAreReadOnly := by
  intro i s t h
  refine ⟨exec_keeps_cfg h, ?_⟩
  by_cases hi : ∀ v, i ≠ .wrControl v
  · have hd := exec_keeps_drives h hi
    exact ⟨fun _ => hd, fun d _ => by rw [hd]⟩
  · obtain ⟨v, rfl⟩ : ∃ v, i = .wrControl v := by simpa using hi
    rw [exec_wrControl_drives h]
    refine ⟨fun hc => ?_, fun d => driveCmd_drives_of_not_selected s _ _ d⟩
    have hs : s.driveSel = none := hc.resolve_left hi
    rw [driveCmd_of_no_drive s _ _ hs]

end Sys2Proof.Machine
end

section
/-! Noninterference: `CLK_SR`, `CRC` and `OVERRUN` have no observer in the block (rules R16, R23, R126). Two states that
differ in these three registers only are related, every shared operation preserves the relation, and the step inherits
it. -/

namespace Sys2Proof.Machine

/-- Two states agree on everything but `CLK_SR`, `CRC` and `OVERRUN`. -/
def SameVisible (s t : State) : Prop :=
  ∃ x c o, t = { s with clkSr := x, crc := c, overrun := o }

/-- Two outcomes tell the same: the same refusal, or next states that agree on all that is visible. -/
inductive SameAnswer : Host.Outcome State Fault Refusal → Host.Outcome State Fault Refusal → Prop where
  | next {s t : State} : SameVisible s t → SameAnswer (.next s) (.next t)
  | refused (r : Refusal) : SameAnswer (.refused r) (.refused r)

namespace SameVisible

variable {s t : State} (h : SameVisible s t)

include h

/-! ### What the operations decide by is visible -/

theorem mode : t.mode = s.mode := by obtain ⟨x, c, o, rfl⟩ := h; rfl
theorem syncState : t.syncState = s.syncState := by obtain ⟨x, c, o, rfl⟩ := h; rfl
theorem syncCnt : t.syncCnt = s.syncCnt := by obtain ⟨x, c, o, rfl⟩ := h; rfl
theorem driveSel : t.driveSel = s.driveSel := by obtain ⟨x, c, o, rfl⟩ := h; rfl
theorem consumed : t.consumed = s.consumed := by obtain ⟨x, c, o, rfl⟩ := h; rfl
theorem timers : t.timers = s.timers := by obtain ⟨x, c, o, rfl⟩ := h; rfl
theorem now : t.now = s.now := by obtain ⟨x, c, o, rfl⟩ := h; rfl
theorem gate : t.gate = s.gate := by obtain ⟨x, c, o, rfl⟩ := h; rfl
theorem cfg : t.cfg = s.cfg := by obtain ⟨x, c, o, rfl⟩ := h; rfl
theorem nextInput : nextInput t = nextInput s := by obtain ⟨x, c, o, rfl⟩ := h; rfl

/-! ### The shared operations -/

theorem arm (k : TimerId) (n : Nat) : SameVisible (arm k n s) (arm k n t) := by
  obtain ⟨x, c, o, rfl⟩ := h
  exact ⟨x, c, o, rfl⟩

theorem disarm (k : TimerId) : SameVisible (disarm k s) (disarm k t) := by
  obtain ⟨x, c, o, rfl⟩ := h
  exact ⟨x, c, o, rfl⟩

theorem rearmLock : SameVisible (rearmLock s) (rearmLock t) := by
  obtain ⟨x, c, o, rfl⟩ := h
  exact ⟨x, c, o, rfl⟩

theorem armByteAtClock :
    SameVisible (Machine.arm .byte (s.pllTime - s.now) s) (Machine.arm .byte (t.pllTime - t.now) t) := by
  obtain ⟨x, c, o, rfl⟩ := h
  exact ⟨x, c, o, rfl⟩

theorem setSyncCnt (n : Nat) : SameVisible { s with syncCnt := n } { t with syncCnt := n } := by
  obtain ⟨x, c, o, rfl⟩ := h
  exact ⟨x, c, o, rfl⟩

theorem setSyncState (y : SyncState) : SameVisible { s with syncState := y } { t with syncState := y } := by
  obtain ⟨x, c, o, rfl⟩ := h
  exact ⟨x, c, o, rfl⟩

theorem crcStep (d : Bool) : SameVisible (crcStep d s) (crcStep d t) := by
  obtain ⟨x, c, o, rfl⟩ := h
  exact ⟨x, crcNext c d, o, rfl⟩

theorem markOverrun : SameVisible (markOverrun s) (markOverrun t) := by
  obtain ⟨x, c, o, rfl⟩ := h
  exact ⟨x, c, _, rfl⟩

theorem syncReset : SameVisible (syncReset s) (syncReset t) := by
  obtain ⟨x, c, o, rfl⟩ := h
  exact ⟨0, c, o, rfl⟩

/-- A half-bit comes from the medium and the separator's clock. -/
theorem sep : (sep t).1 = (sep s).1 ∧ SameVisible (sep s).2 (sep t).2 := by
  obtain ⟨x, c, o, rfl⟩ := h
  exact ⟨rfl, x, c, o, rfl⟩

/-- A cell returns the same data half-bit, and shifts it into the same `DATA_SR`. -/
theorem shiftCell (b : Bool) :
    (shiftCell b t).1 = (shiftCell b s).1 ∧ SameVisible (shiftCell b s).2 (shiftCell b t).2 := by
  obtain ⟨x, c, o, rfl⟩ := h
  rw [shiftCell_eq, shiftCell_eq]
  exact ⟨rfl, _, _, _, rfl⟩

theorem shiftCells (b : Bool) (n : Nat) : SameVisible (shiftCells b n s) (shiftCells b n t) := by
  induction n generalizing s t with
  | zero => exact h
  | succ n ih => exact ih (h.shiftCell b).2

theorem byteReady : SameVisible (byteReady s) (byteReady t) := by
  unfold Machine.byteReady resume
  simp only [announce_gate, h.gate]
  obtain ⟨x, c, o, rfl⟩ := h
  split <;> exact ⟨x, c, o, rfl⟩

theorem readOn : SameVisible (readOn s) (readOn t) := by
  obtain ⟨x, c, o, rfl⟩ := h
  exact ⟨0, c, o, rfl⟩

theorem readOff : SameVisible (readOff s) (readOff t) := by
  obtain ⟨x, c, o, rfl⟩ := h
  exact ⟨0, c, o, rfl⟩

theorem resetBlock : SameVisible (resetBlock s) (resetBlock t) := by
  obtain ⟨x, c, o, rfl⟩ := h
  exact ⟨0, 0, false, rfl⟩

/-! ### The two callbacks and the scheduler -/

theorem lockFound (b : Bool) : SameVisible (lockFound b s) (lockFound b t) := by
  obtain ⟨x, c, o, rfl⟩ := h
  cases b <;> exact ⟨0, c, o, rfl⟩

theorem searchSync : SameVisible (searchSync s) (searchSync t) := by
  obtain ⟨hbit₁, h₁⟩ := h.sep
  obtain ⟨hbit₂, h₂⟩ := h₁.sep
  unfold Machine.searchSync
  simp only [hbit₁, hbit₂, h₂.syncCnt]
  split
  · exact (h₂.setSyncCnt 0).rearmLock
  · split
    · exact ((h₂.setSyncCnt _).lockFound _).rearmLock
    · exact (h₂.setSyncCnt _).rearmLock

theorem markFound : SameVisible (markFound s) (markFound t) := by
  have hcells := h.shiftCells false (cellsPerByte - 1)
  exact ((hcells.armByteAtClock.disarm .lock).setSyncState .locked).byteReady

theorem searchMark : SameVisible (searchMark s) (searchMark t) := by
  obtain ⟨hbit, hcell⟩ := h.shiftCell false
  unfold Machine.searchMark
  simp only [hbit]
  split
  · exact hcell.markFound
  · exact hcell.rearmLock

theorem tickLock : SameVisible (tickLock s) (tickLock t) := by
  unfold Machine.tickLock
  rw [h.mode, h.syncState]
  split
  · split
    · exact h.searchSync
    · exact h.searchMark
    · exact h
  · exact h

theorem tickByte : SameVisible (tickByte s) (tickByte t) := by
  unfold Machine.tickByte
  rw [h.mode, h.syncState]
  split
  · exact (h.markOverrun.shiftCells true cellsPerByte).byteReady.armByteAtClock
  · exact h

theorem callback (k : TimerId) : SameVisible (callback k s) (callback k t) := by
  cases k with
  | timeout => exact h
  | lock => exact h.tickLock
  | byte => exact h.tickByte
  | aux => exact h

theorem deliver : SameVisible (deliver s) (deliver t) := by
  unfold Machine.deliver
  rw [h.timers, h.now]
  split
  · exact h
  · refine (SameVisible.disarm ?_ _).callback _
    obtain ⟨x, c, o, rfl⟩ := h
    exact ⟨x, c, o, rfl⟩

/-! ### The host's operations -/

theorem latch (v : Byte) : SameVisible (latch v s) (latch v t) := by
  unfold Machine.latch driveCmd
  rw [h.driveSel]
  obtain ⟨x, c, o, rfl⟩ := h
  split <;> exact ⟨x, c, o, rfl⟩

theorem controlWrite (v : Byte) : SameVisible (controlWrite v s) (controlWrite v t) := by
  have hlatch := h.latch v
  unfold Machine.controlWrite
  rw [h.mode]
  split
  · split
    · exact hlatch.readOn
    · exact hlatch
  · split
    · exact hlatch
    · exact hlatch.readOff
  · exact hlatch

theorem readData : SameVisible (readData s) (readData t) := by
  unfold Machine.readData
  rw [h.consumed]
  obtain ⟨x, c, o, rfl⟩ := h
  split <;> exact ⟨x, c, o, rfl⟩

/-! ### Every operation, and the step -/

/-- Every operation tells the same of two states that agree on all that is visible. -/
theorem exec (i : Instr) : SameAnswer (exec i s) (exec i t) := by
  cases i with
  | rdStatus => obtain ⟨x, c, o, rfl⟩ := h; exact .next ⟨x, c, o, rfl⟩
  | wrControl v =>
    show SameAnswer (execWrControl v _) (execWrControl v _)
    unfold execWrControl
    split
    · exact .refused _
    · exact .next (h.controlWrite v)
  | wrControlWren v => exact .refused _
  | rdDrvstat => obtain ⟨x, c, o, rfl⟩ := h; exact .next ⟨x, c, o, rfl⟩
  | wrDrvsel v => obtain ⟨x, c, o, rfl⟩ := h; exact .next ⟨x, c, o, rfl⟩
  | rdData => exact .next h.readData
  | wrData v => exact .refused _
  | notDecoded w => exact .next h
  | tickTimeout => exact .next h
  | tickLock => exact .next h.tickLock
  | tickByte => exact .next h.tickByte
  | tickAux => exact .next h
  | reset => exact .next h.resetBlock
  | sep => obtain ⟨x, c, o, rfl⟩ := h; exact .next ⟨x, c, o, rfl⟩
  | shiftCell b =>
    obtain ⟨hbit, x, c, o, hcell⟩ := h.shiftCell b
    refine .next ⟨x, c, o, ?_⟩
    rw [hbit, hcell]
  | crcStep d => exact .next (h.crcStep d)
  | byteReady => exact .next h.byteReady
  | readOn => exact .next h.readOn
  | readOff => exact .next h.readOff
  | syncReset => exact .next h.syncReset
  | arm k n => exact .next (h.arm k n)
  | disarm k => exact .next (h.disarm k)
  | deliver => exact .next h.deliver

/-- The same agent moves; if it is an input's turn, the same bytes come, to states that agree on all that is visible. -/
theorem fetch :
    fetch s = none ∧ fetch t = none ∨
    ∃ bs s' t', fetch s = some (bs, s') ∧ fetch t = some (bs, t') ∧ SameVisible s' t' := by
  unfold Machine.fetch
  rw [h.nextInput, h.timers, h.now, h.cfg]
  obtain ⟨x, c, o, rfl⟩ := h
  cases Machine.nextInput s with
  | none => exact .inl ⟨rfl, rfl⟩
  | some p =>
    obtain ⟨i, is⟩ := p
    dsimp only
    cases timerFirst s.timers (max s.now i.time) i with
    | true => exact .inl ⟨rfl, rfl⟩
    | false => exact .inr ⟨_, _, _, rfl, rfl, x, c, o, rfl⟩

/-- The step tells the same of two states that agree on all that is visible. -/
theorem step : SameAnswer (step s) (step t) := by
  unfold Machine.step
  rcases h.fetch with ⟨hs, ht⟩ | ⟨bs, s', t', hs, ht, h'⟩
  · rw [hs, ht]
    exact h.exec .deliver
  · rw [hs, ht]
    dsimp only
    split
    · exact h'.exec _
    · exact .refused _

end SameVisible

theorem SameAnswer.of_refused {r : Refusal} {b : Host.Outcome State Fault Refusal}
    (h : SameAnswer (.refused r) b) : b = .refused r := by
  cases h
  rfl

theorem SameAnswer.of_next {s : State} {b : Host.Outcome State Fault Refusal} (h : SameAnswer (.next s) b) :
    ∃ t, SameVisible s t ∧ b = .next t := by
  cases h with
  | next h => exact ⟨_, h, rfl⟩

/-- Settles O51: states that agree on all that is visible step to the same refusal, or to states that agree again. -/
theorem hiddenRegistersAreNeverObserved : Obligations.HiddenRegistersAreNeverObserved := by
  intro s x c o
  have hstep : SameAnswer (step s) (step { s with clkSr := x, crc := c, overrun := o }) :=
    SameVisible.step ⟨x, c, o, rfl⟩
  refine ⟨fun r hr => ?_, fun t ht => ?_⟩
  · rw [hr] at hstep
    exact hstep.of_refused
  · rw [ht] at hstep
    obtain ⟨t', ⟨x', c', o', rfl⟩, hnext⟩ := hstep.of_next
    exact ⟨x', c', o', hnext⟩

end Sys2Proof.Machine
end

section
/-! The invariant of rule R31: the reset state has it, and every step keeps it. A timer's callback runs at its own fire
time, so each callback is considered in a state that has the invariant and whose `NOW` is that time: `T_LOCK` fires one
bit cell after the separator's clock, `T_BYTE` at it. -/

namespace Sys2Proof.Machine

/-! ### Timers and the next input -/

@[simp] theorem Timers.set_set (t : Timers) (k : TimerId) (v w : Option Nat) : (t.set k v).set k w = t.set k w := by
  cases k <;> rfl

theorem Timers.set_comm (t : Timers) {k j : TimerId} (h : k ≠ j) (v w : Option Nat) :
    (t.set k v).set j w = (t.set j w).set k v := by
  revert h
  cases k <;> cases j <;> simp [Timers.set]

/-- A write that arms no timer before time `n` leaves none armed before it. -/
theorem Timers.set_ahead {t : Timers} {n : Nat} (h : ∀ k f, t.get k = some f → n ≤ f) (k : TimerId) (v : Option Nat)
    (hv : ∀ f, v = some f → n ≤ f) : ∀ j f, (t.set k v).get j = some f → n ≤ f := by
  intro j f hf
  rw [Timers.get_set] at hf
  split at hf
  · exact hv f hf
  · exact h j f hf

/-- An input at time `t` that comes before the scheduler finds no timer armed before `t`. -/
theorem timerFirst_eq_false {tm : Timers} {t : Nat} {i : Input} (h : timerFirst tm t i = false) (k : TimerId) (f : Nat)
    (hk : tm.get k = some f) : t ≤ f := by
  cases he : earliest tm with
  | none =>
    rw [(earliest_eq_none tm).1 he k] at hk
    cases hk
  | some p =>
    have hmin := (earliest_eq_some tm p.1 p.2 he).2 k f hk
    have hle : t ≤ p.2 := by
      unfold timerFirst at h
      rw [he] at h
      cases i with
      | access u w a v =>
        have : ¬ p.2 ≤ t := of_decide_eq_false h
        omega
      | reset u e => cases e <;> simp at h <;> omega
    omega

/-- A held host issues no access. -/
theorem gate_opened_of_nextInput {s : State} {i : Input} {is : List Input} (h : nextInput s = some (i, is))
    (hi : i.isAccess = true) : s.gate = .opened := by
  cases hg : s.gate with
  | opened => rfl
  | blocked op =>
    unfold nextInput at h
    rw [hg] at h
    obtain ⟨⟨t, e, rfl⟩, -⟩ := takeReset_spec _ _ _ h
    cases hi

/-- Every `BUS` word is the word of an operation of the host. -/
theorem encodeBus_decodeBus (w : BusWord) : encodeBus (decodeBus w) ≠ none := by
  unfold decodeBus
  split_ifs <;> simp [encodeBus]

/-! ### A callback overwrites the timer that called it -/

theorem shiftCell_disarm (b : Bool) (k : TimerId) (s : State) :
    shiftCell b (disarm k s) = ((shiftCell b s).1, disarm k (shiftCell b s).2) := by
  rw [shiftCell_eq, shiftCell_eq]
  rfl

theorem shiftCells_disarm (b : Bool) (n : Nat) (k : TimerId) (s : State) :
    shiftCells b n (disarm k s) = disarm k (shiftCells b n s) := by
  induction n generalizing s with
  | zero => rfl
  | succ n ih =>
    unfold shiftCells
    rw [shiftCell_disarm]
    exact ih _

theorem byteReady_disarm (k : TimerId) (s : State) : byteReady (disarm k s) = disarm k (byteReady s) := by
  unfold byteReady resume
  simp only [announce_gate, disarm_gate]
  split <;> rfl

/-- A timer that is armed was disarmed to no effect. -/
theorem arm_disarm (k : TimerId) (n : Nat) (s : State) : arm k n (disarm k s) = arm k n s := by
  simp [arm, disarm]

theorem disarm_disarm (k : TimerId) (s : State) : disarm k (disarm k s) = disarm k s := by
  simp [disarm]

theorem arm_disarm_comm {k j : TimerId} (h : k ≠ j) (n : Nat) (s : State) :
    arm j n (disarm k s) = disarm k (arm j n s) := by
  simp [arm, disarm, Timers.set_comm _ h]

theorem searchSync_disarm (s : State) : searchSync (disarm .lock s) = searchSync s := by
  rw [searchSync_eq, searchSync_eq]
  simp only [disarm_timers, Timers.set_set]
  rfl

theorem markFound_disarm (s : State) : markFound (disarm .lock s) = markFound s := by
  unfold markFound
  simp only [shiftCells_disarm, arm_disarm_comm (show TimerId.lock ≠ .byte by decide), disarm_disarm, disarm_pllTime,
    disarm_now]

theorem searchMark_disarm (s : State) : searchMark (disarm .lock s) = searchMark s := by
  unfold searchMark
  rw [shiftCell_disarm]
  dsimp only
  rw [markFound_disarm]
  unfold rearmLock
  rw [arm_disarm]
  rfl

/-- The tick of the search writes `T_LOCK`, so that it does not matter that `DELIVER` disarmed it. -/
theorem tickLock_disarm {s : State} (hr : s.mode = .reading) (hl : s.syncState ≠ .locked) :
    tickLock (disarm .lock s) = tickLock s := by
  unfold tickLock
  simp only [disarm_mode, disarm_syncState, hr, if_true]
  cases hs : s.syncState with
  | searchingSync => exact searchSync_disarm s
  | searchingMark => exact searchMark_disarm s
  | locked => exact absurd hs hl

/-- The byte tick writes `T_BYTE`, so that it does not matter that `DELIVER` disarmed it. -/
theorem tickByte_disarm {s : State} (hr : s.mode = .reading) (hl : s.syncState = .locked) :
    tickByte (disarm .byte s) = tickByte s := by
  have hmark : markOverrun (disarm .byte s) = disarm .byte (markOverrun s) := rfl
  rw [tickByte_locked (disarm .byte s) hr hl, tickByte_locked s hr hl, hmark, shiftCells_disarm, byteReady_disarm,
    arm_disarm]
  rfl

/-! ### The windows of the search, the cells of the mark and of a byte -/

/-- A window ends at or after its start. -/
theorem sepAt_advance (s : State) (c : Nat) : c ≤ (sepAt s c).2 := by
  rcases sepAt_cases s c with ⟨e, -, hce, -, h⟩ | ⟨-, h⟩ <;> simp only [h] <;> omega

/-- A cell of the search for the mark takes no CRC step. -/
theorem shiftCell_false_frame (s : State) :
    (shiftCell false s).2 = { s with
      pllTime := (shiftCell false s).2.pllTime, clkSr := (shiftCell false s).2.clkSr,
      dataSr := (shiftCell false s).2.dataSr } := by
  rw [shiftCell_eq]
  rfl

theorem searchMark_of_data_one {s : State} (hb : (shiftCell false s).1 = true) :
    searchMark s = markFound (shiftCell false s).2 := by
  simp only [searchMark, hb, if_true]

theorem searchMark_of_data_zero {s : State} (hb : (shiftCell false s).1 = false) :
    searchMark s = rearmLock (shiftCell false s).2 := by
  simp only [searchMark, hb, Bool.false_eq_true, if_false]

/-- What `TICK_BYTE` does while locked and reading, register by register; `q` is the state after the eight cells. -/
theorem tickByte_locked_frame {s q : State} (hr : s.mode = .reading) (hl : s.syncState = .locked)
    (hq : shiftCells true cellsPerByte (markOverrun s) = q) :
    tickByte s = { s with
      pllTime := q.pllTime, clkSr := q.clkSr, dataSr := q.dataSr, crc := q.crc, overrun := s.overrun || !s.consumed
      consumed := (byteReady q).consumed, gate := .opened, history := (byteReady q).history
      timers := s.timers.set .byte (some (s.now + (q.pllTime - s.now))) } := by
  rw [tickByte_locked s hr hl, hq, byteReady_frame]
  have hframe := shiftCells_frame true cellsPerByte (markOverrun s)
  rw [hq] at hframe
  obtain ⟨p, x, d, c, rfl⟩ : ∃ p x d c, q = { markOverrun s with pllTime := p, clkSr := x, dataSr := d, crc := c } :=
    ⟨_, _, _, _, hframe⟩
  rfl

/-! ### What the host and the reset input do -/

section Keeps

variable {s : State} (h : Inv s)

include h

theorem Inv.one_le_halfBit : 1 ≤ s.cfg.halfBit := by
  have hp := h.params
  simp only [Config.wf, Bool.and_eq_true, decide_eq_true_eq] at hp
  exact hp.1.1.1

theorem emit_keeps_inv (e : Event) : Inv (emit e s) := { h with }

theorem latch_keeps_inv (v : Byte) : Inv (latch v s) := by
  rw [latch_frame]
  exact { h with }

/-- Time and the pending inputs may move on, to where no armed timer lies in the past. -/
theorem advance_keeps_inv {n : Nat} (is : List Input) (hn : ∀ k f, s.timers.get k = some f → n ≤ f) :
    Inv { s with now := n, inputs := is } :=
  { h with timersAhead := hn }

theorem selection_keeps_inv (v : Byte) : Inv { s with driveSel := selection v s } :=
  { h with driveFitted := fun d hd => (selection_some v s d hd).2.2.1 }

/-- Reading is turned on in `Idle`, where no byte is unread and no byte timer runs. -/
theorem readOn_keeps_inv (hi : s.mode = .idle) : Inv (readOn s) := by
  obtain ⟨-, -, -, -, hread, -, -, hbyte⟩ := h.idle hi
  exact {
    params := h.params
    notWriting := nofun
    crcFlags := h.crcFlags
    idle := nofun
    unread := fun hu => absurd (hread.symm.trans hu) nofun
    searching := fun _ _ => ⟨rfl, hbyte⟩
    locked := fun _ => nofun
    auxIdle := h.auxIdle
    heldControl := fun _ => ⟨rfl, nofun⟩
    heldData := fun _ => hread
    timersAhead := by
      have hlock := Timers.set_ahead h.timersAhead .lock (some (s.now + lockPeriod s.cfg)) (by simp)
      exact Timers.set_ahead hlock .timeout (some (s.now + s.cfg.timeoutPeriod)) (by simp)
    counting := fun _ => Nat.zero_lt_succ 28
    counted := fun hc => absurd rfl hc
    preamble := nofun
    driveFitted := h.driveFitted }

/-- Reading is turned off by a host that is not held. -/
theorem readOff_keeps_inv (hg : s.gate = .opened) : Inv (readOff s) where
  params := h.params
  notWriting := nofun
  crcFlags := h.crcFlags
  idle := fun _ => ⟨rfl, rfl, rfl, rfl, rfl, rfl, rfl, rfl⟩
  unread := nofun
  searching := nofun
  locked := nofun
  auxIdle := h.auxIdle
  heldControl := fun hc => absurd (hg.symm.trans hc) nofun
  heldData := fun _ => rfl
  timersAhead := by
    have hlock := Timers.set_ahead h.timersAhead .lock none nofun
    have hbyte := Timers.set_ahead hlock .byte none nofun
    exact Timers.set_ahead hbyte .timeout none nofun
  counting := fun _ => Nat.zero_lt_succ 28
  counted := fun hc => absurd rfl hc
  preamble := nofun
  driveFitted := h.driveFitted

theorem controlWrite_keeps_inv (hg : s.gate = .opened) (v : Byte) : Inv (controlWrite v s) := by
  have hlatch := latch_keeps_inv h v
  rcases controlWrite_cases v s with hc | ⟨hi, -, hc⟩ | ⟨-, -, hc⟩
  · rw [hc]
    exact hlatch
  · rw [hc]
    exact readOn_keeps_inv hlatch (by rw [latch_frame]; exact hi)
  · rw [hc]
    exact readOff_keeps_inv hlatch (by rw [latch_frame]; exact hg)

/-- A read that is returned leaves the byte consumed; a read that is held finds it consumed. -/
theorem readData_keeps_inv : Inv (readData s) := by
  unfold readData
  split
  · rename_i hread
    exact { h with heldControl := nofun, heldData := fun _ => hread }
  · exact { h with
      idle := fun hi =>
        have ⟨hs, hn, hx, hd, _, ht⟩ := h.idle hi
        ⟨hs, hn, hx, hd, rfl, ht⟩
      unread := nofun
      heldData := fun _ => rfl }

theorem resetBlock_keeps_inv : Inv (resetBlock s) where
  params := h.params
  notWriting := nofun
  crcFlags := ⟨rfl, rfl⟩
  idle := fun _ => ⟨rfl, rfl, rfl, rfl, rfl, rfl, rfl, rfl⟩
  unread := nofun
  searching := nofun
  locked := nofun
  auxIdle := rfl
  heldControl := nofun
  heldData := nofun
  timersAhead := fun k _ hf => by cases k <;> cases hf
  counting := fun _ => Nat.zero_lt_succ 28
  counted := fun hc => absurd rfl hc
  preamble := nofun
  driveFitted := nofun

/-- A host that is not held issues one of the operations of the `BUS` format; each keeps the invariant. -/
theorem exec_host_keeps_inv {i : Instr} {t : State} (hg : s.gate = .opened) (hi : encodeBus i ≠ none)
    (he : exec i s = .next t) : Inv t := by
  have ht := exec_next i s t he
  cases i with
  | rdStatus => exact ht ▸ emit_keeps_inv h _
  | wrControl v => exact ht.2 ▸ controlWrite_keeps_inv h hg v
  | wrControlWren v => exact ht.elim
  | rdDrvstat => exact ht ▸ emit_keeps_inv h _
  | wrDrvsel v => exact ht ▸ selection_keeps_inv h v
  | rdData => exact ht ▸ readData_keeps_inv h
  | wrData v => exact ht.elim
  | notDecoded w => exact ht ▸ h
  | _ => exact absurd rfl hi

/-! ### What the callbacks do -/

/-- The search goes on: `T_LOCK` is armed one bit cell after the separator's clock `p`. -/
theorem search_keeps_inv (hr : s.mode = .reading) (hl : s.syncState ≠ .locked) {p n : Nat} {x d : Byte} {y : SyncState}
    (hp : s.now ≤ p + 2 * s.cfg.halfBit) (hy : y = .searchingSync ∧ n < 29 ∨ y = .searchingMark ∧ n = 29 ∧ d = 0) :
    Inv { s with
      pllTime := p, syncState := y, syncCnt := n, clkSr := x, dataSr := d
      timers := s.timers.set .lock (some (s.now + (p + 2 * s.cfg.halfBit - s.now))) } := by
  have hy' : y ≠ .locked := by rcases hy with ⟨rfl, -⟩ | ⟨rfl, -⟩ <;> simp
  exact { h with
    idle := fun hi => absurd (hr.symm.trans hi) nofun
    unread := fun hu => absurd (h.unread hu).2 hl
    searching := fun _ _ => ⟨by simp only [Timers.set]; congr 1; omega, (h.searching hr hl).2⟩
    locked := fun _ hk => absurd hk hy'
    heldControl := fun _ => ⟨hr, hy'⟩
    timersAhead := Timers.set_ahead h.timersAhead _ _ (by simp)
    counting := fun hs => by rcases hy with ⟨-, hn⟩ | ⟨rfl, -⟩ <;> simp_all
    counted := fun hs => by rcases hy with ⟨rfl, -⟩ | ⟨-, hn, -⟩ <;> simp_all
    preamble := fun hs => by rcases hy with ⟨rfl, -⟩ | ⟨-, -, hd⟩ <;> simp_all }

/-- A byte is complete: `T_BYTE` is armed at the separator's clock `p`. -/
theorem locked_keeps_inv (hr : s.mode = .reading) (hn : s.syncCnt = 29) {p : Nat} {x d : Byte} {c : CrcWord}
    {o b : Bool} {es : List Event} {tm : Timers} {y : SyncState} (hy : y = .locked) (hbyte : tm.byte = some p)
    (hlock : tm.lock = none) (haux : tm.aux = none) (hahead : ∀ k f, tm.get k = some f → s.now ≤ f) :
    Inv { s with
      pllTime := p, syncState := y, clkSr := x, dataSr := d, crc := c, overrun := o, consumed := b
      gate := .opened, history := es, timers := tm } :=
  { h with
    idle := fun hi => absurd (hr.symm.trans hi) nofun
    unread := fun _ => ⟨hr, hy⟩
    searching := fun _ hk => absurd hy hk
    locked := fun _ _ => ⟨hbyte, hlock⟩
    auxIdle := haux
    heldControl := nofun
    heldData := nofun
    timersAhead := hahead
    counting := fun hk => absurd (hy.symm.trans hk) nofun
    counted := fun _ => hn
    preamble := fun hk => absurd (hy.symm.trans hk) nofun }

/-- The tick of the search at its fire time: `T_LOCK` fires one bit cell after the separator's clock. -/
theorem searchSync_keeps_inv (hr : s.mode = .reading) (hs : s.syncState = .searchingSync)
    (hnow : s.now = s.pllTime + 2 * s.cfg.halfBit) : Inv (searchSync s) := by
  have hl : s.syncState ≠ .locked := by simp [hs]
  have hn := h.counting hs
  have hpair : s.pllTime ≤ (sepAt s (sepAt s s.pllTime).2).2 := (sepAt_advance s _).trans (sepAt_advance s _)
  rw [searchSync_eq]
  dsimp only
  generalize sepAt s (sepAt s s.pllTime).2 = b at hpair ⊢
  split
  · exact search_keeps_inv h hr hl (by omega) (.inl ⟨hs, by omega⟩)
  · split
    · have hskip : b.2 ≤ if b.1 then (sepAt s b.2).2 else b.2 := by
        split
        · exact sepAt_advance s _
        · exact le_refl _
      exact search_keeps_inv h hr hl (by omega) (.inr ⟨rfl, rfl, rfl⟩)
    · exact search_keeps_inv h hr hl (by omega) (.inl ⟨hs, by omega⟩)

/-- The tick of the search for the mark at its fire time. While the mark is not found `DATA_SR` stays 0; the mark's cells
take the separator's clock past `NOW`. -/
theorem searchMark_keeps_inv (hr : s.mode = .reading) (hs : s.syncState = .searchingMark)
    (hnow : s.now = s.pllTime + 2 * s.cfg.halfBit) : Inv (searchMark s) := by
  have hH := h.one_le_halfBit
  have hcell := (shiftCell_advance false s hH).1
  have hcount := h.counted (by simp [hs])
  cases hb : (shiftCell false s).1 with
  | true =>
    have hcells := (shiftCells_advance false 7 (shiftCell false s).2 (by rw [shiftCell_cfg]; exact hH)).1
    rw [shiftCell_cfg] at hcells
    rw [searchMark_of_data_one hb, markFound_frame]
    generalize shiftCells false 7 (shiftCell false s).2 = q at hcells ⊢
    have hbyte : s.now + (q.pllTime - s.now) = q.pllTime := by omega
    rw [shiftCell_false_frame]
    refine locked_keeps_inv h hr hcount rfl (congrArg some hbyte) rfl h.auxIdle ?_
    have harm := Timers.set_ahead h.timersAhead .byte (some (s.now + (q.pllTime - s.now))) (by simp)
    exact Timers.set_ahead harm .lock none nofun
  | false =>
    have hdata : (shiftCell false s).2.dataSr = 0 := by
      rw [shiftCell_dataSr, hb, h.preamble hs]
      rfl
    have hnow' : s.now ≤ (shiftCell false s).2.pllTime + 2 * s.cfg.halfBit := by omega
    rw [searchMark_of_data_zero hb, shiftCell_false_frame]
    exact search_keeps_inv h hr (by simp [hs]) hnow' (.inr ⟨hs, hcount, hdata⟩)

theorem tickLock_keeps_inv (hr : s.mode = .reading) (hnow : s.now = s.pllTime + 2 * s.cfg.halfBit) :
    Inv (tickLock s) := by
  unfold tickLock
  rw [if_pos hr]
  split
  · exact searchSync_keeps_inv h hr ‹_› hnow
  · exact searchMark_keeps_inv h hr ‹_› hnow
  · exact h

/-- The byte tick at its fire time, the separator's clock. -/
theorem tickByte_keeps_inv (hr : s.mode = .reading) (hl : s.syncState = .locked) (hnow : s.now = s.pllTime) :
    Inv (tickByte s) := by
  have hcells : s.pllTime + _ ≤ _ := (shiftCells_advance true cellsPerByte (markOverrun s) h.one_le_halfBit).1
  rw [tickByte_locked_frame hr hl rfl]
  generalize shiftCells true cellsPerByte (markOverrun s) = q at hcells ⊢
  have hbyte : s.now + (q.pllTime - s.now) = q.pllTime := by omega
  exact locked_keeps_inv h hr (h.counted (by simp [hl])) hl (congrArg some hbyte) (h.locked hr hl).2 h.auxIdle
    (Timers.set_ahead h.timersAhead _ _ (by simp))

/-! ### The scheduler and the step -/

theorem Inv.reading_of_not_idle (hi : s.mode ≠ .idle) : s.mode = .reading := by
  cases hm : s.mode with
  | idle => exact absurd hm hi
  | reading => rfl
  | writing => exact absurd hm h.notWriting

/-- `T_LOCK` is armed during a search only, one bit cell after the separator's clock. -/
theorem Inv.of_lock_armed {f : Nat} (hf : s.timers.lock = some f) :
    s.mode = .reading ∧ s.syncState ≠ .locked ∧ f = s.pllTime + 2 * s.cfg.halfBit := by
  have hr : s.mode = .reading := h.reading_of_not_idle fun hi => by
    obtain ⟨-, -, -, -, -, -, hlock, -⟩ := h.idle hi
    simp [hlock] at hf
  have hl : s.syncState ≠ .locked := fun hl => by simp [(h.locked hr hl).2] at hf
  exact ⟨hr, hl, Option.some.inj (hf.symm.trans (h.searching hr hl).1)⟩

/-- `T_BYTE` is armed when locked only, at the separator's clock. -/
theorem Inv.of_byte_armed {f : Nat} (hf : s.timers.byte = some f) :
    s.mode = .reading ∧ s.syncState = .locked ∧ f = s.pllTime := by
  have hr : s.mode = .reading := h.reading_of_not_idle fun hi => by
    obtain ⟨-, -, -, -, -, -, -, hbyte⟩ := h.idle hi
    simp [hbyte] at hf
  have hl : s.syncState = .locked := by
    by_contra hl
    simp [(h.searching hr hl).2] at hf
  exact ⟨hr, hl, Option.some.inj (hf.symm.trans (h.locked hr hl).1)⟩

theorem disarm_timeout_keeps_inv : Inv (disarm .timeout s) :=
  { h with
    idle := fun hi =>
      have ⟨hs, hn, hx, hd, hc, _, hlock, hbyte⟩ := h.idle hi
      ⟨hs, hn, hx, hd, hc, rfl, hlock, hbyte⟩
    timersAhead := Timers.set_ahead h.timersAhead .timeout none nofun }

/-- The callback of the timer that stands at `NOW`, after `DELIVER` has disarmed it. -/
theorem callback_keeps_inv (k : TimerId) (hk : s.timers.get k = some s.now) : Inv (callback k (disarm k s)) := by
  cases k with
  | timeout => exact disarm_timeout_keeps_inv h
  | lock =>
    obtain ⟨hr, hl, hnow⟩ := h.of_lock_armed hk
    show Inv (tickLock (disarm .lock s))
    rw [tickLock_disarm hr hl]
    exact tickLock_keeps_inv h hr hnow
  | byte =>
    obtain ⟨hr, hl, hnow⟩ := h.of_byte_armed hk
    show Inv (tickByte (disarm .byte s))
    rw [tickByte_disarm hr hl]
    exact tickByte_keeps_inv h hr hl hnow
  | aux => exact absurd (h.auxIdle.symm.trans hk) nofun

theorem deliver_keeps_inv : Inv (deliver s) := by
  rcases deliver_cases s with ⟨-, hd⟩ | ⟨k, f, he, hd⟩
  · rw [hd]
    exact h
  · obtain ⟨hk, hmin⟩ := earliest_eq_some s.timers k f he
    have hnow : max s.now f = f := max_eq_right (h.timersAhead k f hk)
    have hahead : ∀ j g, s.timers.get j = some g → f ≤ g := fun j g hj => by
      have := hmin j g hj
      omega
    rw [hd, hnow]
    exact callback_keeps_inv (advance_keeps_inv h s.inputs hahead) k hk

/-- A step of an input acts in a state with the invariant at the input's time; only the reset input acts on a held host. -/
theorem step_keeps_inv {t : State} (ht : step s = .next t) : Inv t := by
  rcases step_cases s with ⟨-, hd⟩ | ⟨i, is, j, hnext, hfirst, hdec, he⟩
  · rw [hd] at ht
    cases ht
    exact deliver_keeps_inv h
  · have hat := advance_keeps_inv h is (timerFirst_eq_false hfirst)
    rw [input_decodes] at hdec
    rw [he] at ht
    cases i with
    | access u w a v =>
      cases hdec
      have hg : s.gate = .opened := gate_opened_of_nextInput hnext rfl
      exact exec_host_keeps_inv hat hg (encodeBus_decodeBus _) ht
    | reset u e =>
      cases hdec
      cases ht
      exact resetBlock_keeps_inv hat

end Keeps

/-- Settles O55. -/
theorem everyStepKeepsTheInvariant : Obligations.EveryStepKeepsTheInvariant :=
  fun _ _ h ht => step_keeps_inv h ht

/-- Settles O56: in the reset state nothing is armed, held or unread, and the parameters are rule R7's vectors. -/
theorem resetStateHasTheInvariant : Obligations.ResetStateHasTheInvariant where
  params := by decide
  notWriting := nofun
  crcFlags := ⟨rfl, rfl⟩
  idle := fun _ => ⟨rfl, rfl, rfl, rfl, rfl, rfl, rfl, rfl⟩
  unread := nofun
  searching := nofun
  locked := nofun
  auxIdle := rfl
  heldControl := nofun
  heldData := nofun
  timersAhead := fun k _ hf => by cases k <;> cases hf
  counting := fun _ => by decide
  counted := fun hc => absurd rfl hc
  preamble := nofun
  driveFitted := nofun

end Sys2Proof.Machine
end

section
/-! What no operation, or only a named one, can change: the drive selection, the flags of the write path, virtual time, the
CRC, the overrun flag and the gate (rules R13, R18, R19, R21 to R24, R28, R29). One frame for each shared operation that
has none yet, and each invariant by cases on the operation. -/

namespace Sys2Proof.Machine

variable (s : State)

/-! ### Frames -/

theorem readData_frame :
    readData s = { s with
      consumed := (readData s).consumed, gate := (readData s).gate, history := (readData s).history } := by
  unfold readData
  split <;> rfl

/-- What a control write leaves, with either edge of `RDEN` or none. -/
theorem controlWrite_frame (v : Byte) :
    controlWrite v s = { controlWrite v s with
      crc := s.crc, driveSel := s.driveSel, crcOut := s.crcOut, overrun := s.overrun, crcErr := s.crcErr
      now := s.now } := by
  rcases controlWrite_cases v s with h | ⟨-, -, h⟩ | ⟨-, -, h⟩
  · rw [h, latch_frame]
  · rw [h, latch_frame]
    rfl
  · rw [h, latch_frame]
    rfl

/-- What a callback leaves. -/
theorem callback_frame (k : TimerId) :
    callback k s = { callback k s with
      mode := s.mode, driveSel := s.driveSel, crcOut := s.crcOut, crcErr := s.crcErr, now := s.now } := by
  cases k with
  | timeout => rfl
  | lock => rw [callback, tickLock_frame]
  | byte => rw [callback, tickByte_frame]
  | aux => rfl

/-- What a delivery leaves. -/
theorem deliver_frame :
    deliver s = { deliver s with
      mode := s.mode, driveSel := s.driveSel, crcOut := s.crcOut, crcErr := s.crcErr } := by
  rcases deliver_cases s with ⟨-, h⟩ | ⟨k, f, -, h⟩
  · rw [h]
  · rw [h, callback_frame]
    rfl

variable {s} {i : Instr} {t : State}

/-- What no operation writes but `RESET` and, for the selection, `WR_DRVSEL`. -/
theorem exec_frame (h : exec i s = .next t) (hr : i ≠ .reset) (hd : ∀ v, i ≠ .wrDrvsel v) :
    t = { t with driveSel := s.driveSel, crcOut := s.crcOut, crcErr := s.crcErr } := by
  have ht := exec_next i s t h
  cases i with
  | wrControl v => rw [ht.2, controlWrite_frame]
  | wrControlWren v => exact ht.elim
  | wrDrvsel v => exact absurd rfl (hd v)
  | rdData => rw [ht, readData_frame]
  | wrData v => exact ht.elim
  | tickLock => rw [ht, tickLock_frame]
  | tickByte => rw [ht, tickByte_frame]
  | reset => exact absurd rfl hr
  | shiftCell b => rw [ht, shiftCell_frame]
  | byteReady => rw [ht, byteReady_frame]
  | deliver => rw [ht, deliver_frame]
  | _ => cases h; rfl

/-- No operation but `DELIVER` moves virtual time (R28). -/
theorem exec_now (h : exec i s = .next t) (hi : i ≠ .deliver) : t.now = s.now := by
  have ht := exec_next i s t h
  cases i with
  | wrControl v => rw [ht.2, controlWrite_frame]
  | wrControlWren v => exact ht.elim
  | rdData => rw [ht, readData_frame]
  | wrData v => exact ht.elim
  | tickLock => rw [ht, tickLock_frame]
  | tickByte => rw [ht, tickByte_frame]
  | shiftCell b => rw [ht, shiftCell_frame]
  | byteReady => rw [ht, byteReady_frame]
  | deliver => exact absurd rfl hi
  | _ => cases h; rfl

/-- Only turning reading on or off, and `RESET`, write `MODE`; none of them writes `Writing`. -/
theorem exec_mode (h : exec i s = .next t) : t.mode = s.mode ∨ t.mode = .idle ∨ t.mode = .reading := by
  have ht := exec_next i s t h
  cases i with
  | wrControl v =>
    obtain ⟨-, rfl⟩ := ht
    rcases controlWrite_cases v s with hc | ⟨-, -, hc⟩ | ⟨-, -, hc⟩
    · rw [hc, latch_frame]; exact .inl rfl
    · rw [hc]; exact .inr (.inr rfl)
    · rw [hc]; exact .inr (.inl rfl)
  | wrControlWren v => exact ht.elim
  | rdData => rw [ht, readData_frame]; exact .inl rfl
  | wrData v => exact ht.elim
  | tickLock => rw [ht, tickLock_frame]; exact .inl rfl
  | tickByte => rw [ht, tickByte_frame]; exact .inl rfl
  | reset => exact .inr (.inl (congrArg State.mode ht))
  | shiftCell b => rw [ht, shiftCell_frame]; exact .inl rfl
  | byteReady => rw [ht, byteReady_frame]; exact .inl rfl
  | readOn => exact .inr (.inr (congrArg State.mode ht))
  | readOff => exact .inr (.inl (congrArg State.mode ht))
  | deliver => rw [ht, deliver_frame]; exact .inl rfl
  | _ => cases h; exact .inl rfl

/-- Settles O49. -/
theorem driveSelectionPersists : Obligations.DriveSelectionPersists := by
  intro i s t h hd hr
  rw [exec_frame h hr hd]

/-- Settles O47: `RESET` aside, no operation touches the two flags, and no write to `MODE` is one of `Writing`. -/
theorem writePathStateIsNeverEntered : Obligations.WritePathStateIsNeverEntered := by
  intro i s t h
  refine ⟨fun hm => ?_, ?_⟩
  · rcases exec_mode h with hk | hk | hk <;> simp [hk, hm]
  · cases i with
    | reset => cases h; exact ⟨fun _ => rfl, fun _ => rfl⟩
    | wrDrvsel v => cases h; exact ⟨id, id⟩
    | _ => rw [exec_frame h nofun nofun]; exact ⟨id, id⟩

/-! ### The scheduler -/

/-- What firing a timer leaves true, and neither tick makes false, is true after a delivery. -/
theorem deliver_preserves {P : State → Prop} {s : State} (h : P s) (hfire : ∀ k n, P (disarm k { s with now := n }))
    (hlock : ∀ u, P u → P (tickLock u)) (hbyte : ∀ u, P u → P (tickByte u)) : P (deliver s) := by
  rcases deliver_cases s with ⟨-, hd⟩ | ⟨k, f, -, hd⟩
  · rw [hd]
    exact h
  · rw [hd]
    have hk := hfire k (max s.now f)
    cases k with
    | timeout => exact hk
    | lock => exact hlock _ hk
    | byte => exact hbyte _ hk
    | aux => exact hk

/-! ### Virtual time -/

theorem callback_now (k : TimerId) (s : State) : (callback k s).now = s.now := by
  rw [callback_frame]

/-- A delivery leaves `NOW`, or takes it to the fire time of the timer it delivers. -/
theorem deliver_now (s : State) :
    s.now ≤ (deliver s).now ∧ ((deliver s).now = s.now ∨ ∃ k, s.timers.get k = some (deliver s).now) := by
  rcases deliver_cases s with ⟨-, hd⟩ | ⟨k, f, he, hd⟩
  · rw [hd]
    exact ⟨le_refl _, .inl rfl⟩
  · have hnow : (deliver s).now = max s.now f := by rw [hd, callback_now, disarm_now]
    have hk := (earliest_eq_some s.timers k f he).1
    rw [hnow]
    refine ⟨le_max_left _ _, ?_⟩
    rcases max_choice s.now f with hm | hm
    · exact .inl hm
    · exact .inr ⟨k, by rw [hm, hk]⟩

/-- No input stands for `DELIVER`, which has no encoding. -/
theorem input_ne_deliver {c : Config} {x : Input} {j : Instr} (h : decode (x.bytes c) = .ok j) : j ≠ .deliver := by
  rw [input_decodes] at h
  cases x with
  | access u w a v =>
    cases h
    exact fun hj => encodeBus_decodeBus (busWord w (portOf c a) v) (congrArg encodeBus hj)
  | reset u e =>
    cases h
    nofun

/-- Settles O45: a delivery moves `NOW` as `deliver_now` says, and an input's operation leaves it where the input's time
has taken it. -/
theorem virtualTimeNeverDecreases : Obligations.VirtualTimeNeverDecreases := by
  intro s t ht
  rcases step_cases s with ⟨hfetch, hd⟩ | ⟨x, is, j, hnext, hfirst, hdec, he⟩
  · rw [hd] at ht
    cases ht
    obtain ⟨hle, hfire⟩ := deliver_now s
    exact ⟨hle, fun _ => hfire, fun _ _ _ hf => absurd hfetch hf⟩
  · rw [he] at ht
    have hnow : t.now = max s.now x.time := exec_now ht (input_ne_deliver hdec)
    have hfetch : fetch s ≠ none := by simp [fetch, hnext, hfirst]
    refine ⟨hnow ▸ le_max_left _ _, fun hf => absurd hf hfetch, fun y ys hy _ => ?_⟩
    rw [hnext] at hy
    cases hy
    exact hnow

/-! ### The CRC -/

/-- A byte tick takes its CRC steps in its cells, which take none while `CRC_EN` is 0. -/
theorem tickByte_crc_of_disabled {s : State} (h : s.crcEn = false) : (tickByte s).crc = s.crc := by
  by_cases hl : s.mode = .reading ∧ s.syncState = .locked
  · rw [tickByte_locked_frame hl.1 hl.2 rfl]
    exact shiftCells_crc_same true cellsPerByte (markOverrun s) (by simp [h])
  · rw [tickByte, if_neg hl]

theorem deliver_crc_of_disabled {s : State} (h : s.crcEn = false) : (deliver s).crc = s.crc := by
  have hkept : (deliver s).crcEn = false ∧ (deliver s).crc = s.crc := by
    apply deliver_preserves (P := fun u => u.crcEn = false ∧ u.crc = s.crc) ⟨h, rfl⟩
    · exact fun _ _ => ⟨h, rfl⟩
    · intro u hu
      rw [tickLock_frame]
      exact hu
    · intro u ⟨hen, hcrc⟩
      rw [tickByte_crc_of_disabled hen, tickByte_frame]
      exact ⟨hen, hcrc⟩
  exact hkept.2

/-- Settles O48: by cases on the operation; only cells with the CRC step allowed reach `CRC_STEP`. -/
theorem crcChangesOnlyByItsStepAndReset : Obligations.CrcChangesOnlyByItsStepAndReset := by
  intro i s t h hr hc hen
  have ht := exec_next i s t h
  cases i with
  | wrControl v => rw [ht.2, controlWrite_frame]
  | wrControlWren v => exact ht.elim
  | rdData => rw [ht, readData_frame]
  | wrData v => exact ht.elim
  | tickLock => rw [ht, tickLock_frame]
  | tickByte => rw [ht, tickByte_crc_of_disabled (by simpa using hen)]
  | reset => exact absurd rfl hr
  | shiftCell b =>
    rw [ht]
    exact shiftCell_crc_same b s (by cases b <;> simp_all)
  | crcStep d => exact absurd rfl (hc d)
  | byteReady => rw [ht, byteReady_frame]
  | deliver => rw [ht, deliver_crc_of_disabled (by simpa using hen)]
  | _ => cases h; rfl

/-! ### The overrun flag -/

/-- A byte tick can only set the flag: `OVERRUN` is 1 after it if it was, or if the byte before was unread. -/
theorem tickByte_overrun {s : State} (h : s.overrun = true) : (tickByte s).overrun = true := by
  by_cases hl : s.mode = .reading ∧ s.syncState = .locked
  · rw [tickByte_locked_frame hl.1 hl.2 rfl]
    simp [h]
  · rw [tickByte, if_neg hl, h]

theorem deliver_overrun {s : State} (h : s.overrun = true) : (deliver s).overrun = true := by
  apply deliver_preserves (P := fun u => u.overrun = true) h
  · exact fun _ _ => h
  · intro u hu
    rw [tickLock_frame, hu]
  · exact fun u => tickByte_overrun

/-- Settles O22: by cases on the operation; of all but `RESET` only the byte tick writes the flag. -/
theorem overrunIsStickyUntilReset : Obligations.OverrunIsStickyUntilReset := by
  intro i s t hr h ho
  have ht := exec_next i s t h
  cases i with
  | wrControl v => rw [ht.2, controlWrite_frame, ho]
  | wrControlWren v => exact ht.elim
  | rdData => rw [ht, readData_frame, ho]
  | wrData v => exact ht.elim
  | tickLock => rw [ht, tickLock_frame, ho]
  | tickByte => rw [ht, tickByte_overrun ho]
  | reset => exact absurd rfl hr
  | shiftCell b => rw [ht, shiftCell_frame, ho]
  | byteReady => rw [ht, byteReady_frame, ho]
  | deliver => rw [ht, deliver_overrun ho]
  | _ => cases h; exact ho

/-! ### The gate -/

/-- The tick of the search for the mark leaves the gate, or announces the byte of the mark, which opens it. -/
theorem searchMark_gate_opened {s : State} (h : s.gate = .opened) : (searchMark s).gate = .opened := by
  cases hb : (shiftCell false s).1 with
  | true => rw [searchMark_of_data_one hb, markFound_frame]
  | false => rw [searchMark_of_data_zero hb, shiftCell_frame]; exact h

theorem tickLock_gate_opened {s : State} (h : s.gate = .opened) : (tickLock s).gate = .opened := by
  unfold tickLock
  split
  · split
    · rw [searchSync_frame, h]
    · exact searchMark_gate_opened h
    · exact h
  · exact h

theorem tickByte_gate_opened {s : State} (h : s.gate = .opened) : (tickByte s).gate = .opened := by
  by_cases hl : s.mode = .reading ∧ s.syncState = .locked
  · rw [tickByte_locked_frame hl.1 hl.2 rfl]
  · rw [tickByte, if_neg hl, h]

theorem deliver_gate_opened {s : State} (h : s.gate = .opened) : (deliver s).gate = .opened :=
  deliver_preserves (P := fun u => u.gate = .opened) h (fun _ _ => h) (fun _ => tickLock_gate_opened)
    (fun _ => tickByte_gate_opened)

/-- A control write closes an open gate by turning reading on, and not otherwise. -/
theorem controlWrite_closes {v : Byte} {s : State} (hopen : s.gate = .opened)
    (hclosed : (controlWrite v s).gate ≠ .opened) : ctlRden v = true ∧ s.mode = .idle := by
  rcases controlWrite_cases v s with hc | ⟨hi, hv, -⟩ | ⟨-, -, hc⟩
  · exact absurd (by rw [hc, latch_frame, hopen]) hclosed
  · exact ⟨hv, hi⟩
  · exact absurd (by rw [hc, latch_frame]; exact hopen) hclosed

/-- A data read closes an open gate when there is no unread byte, and not otherwise. -/
theorem readData_closes {s : State} (hopen : s.gate = .opened) (hclosed : (readData s).gate ≠ .opened) :
    s.consumed = true := by
  by_contra hc
  rw [readData, if_neg hc] at hclosed
  exact hclosed hopen

/-- Settles O43: by cases on the operation; every other one leaves an open gate open. -/
theorem onlyTheHostClosesTheGate : Obligations.OnlyTheHostClosesTheGate := by
  intro i s t h hopen hclosed
  have ht := exec_next i s t h
  cases i with
  | wrControl v => exact .inr (.inr ⟨v, rfl, controlWrite_closes hopen (ht.2 ▸ hclosed)⟩)
  | wrControlWren v => exact ht.elim
  | rdData => exact .inl ⟨rfl, readData_closes hopen (ht ▸ hclosed)⟩
  | wrData v => exact ht.elim
  | tickLock => exact absurd (ht ▸ tickLock_gate_opened hopen) hclosed
  | tickByte => exact absurd (ht ▸ tickByte_gate_opened hopen) hclosed
  | reset => exact absurd (ht ▸ rfl) hclosed
  | shiftCell b => exact absurd (by rw [ht, shiftCell_frame, hopen]) hclosed
  | byteReady => exact absurd (by rw [ht, byteReady_frame]) hclosed
  | readOn => exact .inr (.inl rfl)
  | deliver => exact absurd (ht ▸ deliver_gate_opened hopen) hclosed
  | _ => cases h; exact absurd hopen hclosed

end Sys2Proof.Machine
end

section
/-! The medium, and the scheduler before the host (rules R33, R38, R43): what the query answers, the streams that
a command leaves streams, and the due timer that goes before an access. -/

namespace Sys2Proof.Machine

variable {s : State}

/-! ### The query (R38) -/

/-- The search answers a time exactly when it is the nearest transition: there is at most one such time. -/
theorem Flux.next_eq_some_iff (f : Flux) (t e : Nat) :
    f.next t = some e ↔ t ≤ e ∧ f.has e ∧ ∀ u, f.has u → t ≤ u → e ≤ u := by
  have hspec := f.next_spec t
  cases hn : f.next t with
  | none =>
    rw [hn] at hspec
    refine ⟨nofun, fun ⟨hte, he, _⟩ => ?_⟩
    exact absurd (hspec e he) (Nat.not_lt.2 hte)
  | some d =>
    rw [hn] at hspec
    obtain ⟨htd, hd, hmin⟩ := hspec
    constructor
    · rintro ⟨⟩
      exact ⟨htd, hd, hmin⟩
    · rintro ⟨hte, he, hmin'⟩
      exact congrArg some (le_antisymm (hmin e he hte) (hmin' d hd htd))

/-- The search answers nothing exactly when every transition lies before the time asked from. -/
theorem Flux.next_eq_none_iff (f : Flux) (t : Nat) : f.next t = none ↔ ∀ u, f.has u → u < t := by
  have hspec := f.next_spec t
  cases hn : f.next t with
  | none =>
    rw [hn] at hspec
    exact ⟨fun _ => hspec, fun _ => rfl⟩
  | some d =>
    rw [hn] at hspec
    obtain ⟨htd, hd, -⟩ := hspec
    exact ⟨nofun, fun hbefore => absurd (hbefore d hd) (Nat.not_lt.2 htd)⟩

theorem nextTransition_of_no_drive (t : Nat) (h : s.driveSel = none) : nextTransition s t = none := by
  rw [nextTransition, h]

/-- With a fitted drive selected the query is the search in that drive's stream. -/
theorem nextTransition_of_viewOf {d : Fin 8} {v : DriveView} (t : Nat) (hd : s.driveSel = some d)
    (hv : viewOf s d = some v) : nextTransition s t = v.edges.next t := by
  simp only [nextTransition, hd, hv]

/-- Settles O4: the query is the search in the selected drive's stream, whose answers are characterised for every
stream. -/
theorem nextTransitionIsTheNearestEdge : Obligations.NextTransitionIsTheNearestEdge := by
  intro s t
  refine ⟨nextTransition_of_no_drive t, fun d v hd hv => ?_⟩
  rw [nextTransition_of_viewOf t hd hv]
  exact ⟨v.edges.next_eq_some_iff t, v.edges.next_eq_none_iff t⟩

/-! ### Streams stay streams (R33) -/

/-- A drive of which nothing is known shows a stream: its free one. -/
theorem Drive.free_rising (d : Nat) :
    (Drive.free d).view.edges.rising ∧ ∀ v ∈ (Drive.free d).later, v.edges.rising :=
  ⟨Flux.rising_free d, nofun⟩

theorem mediumWf_reset : mediumWf State.reset.drives := by
  intro d hd
  have hfree : ∃ k, d = Drive.free k := by
    simp only [State.reset, List.mem_cons, List.not_mem_nil, or_false] at hd
    rcases hd with h | h | h | h | h | h | h | h <;> exact ⟨_, h⟩
  obtain ⟨k, rfl⟩ := hfree
  exact Drive.free_rising k

/-- A medium of streams stays one when one of its drives takes a command. -/
theorem mediumWf.modify_react {ds : List Drive} (h : mediumWf ds) (n t : Nat) (dir step : Bool) :
    mediumWf (ds.modify n (Drive.react t dir step)) := by
  intro d hd
  obtain ⟨m, hm, rfl⟩ := List.mem_iff_getElem.1 hd
  rw [List.getElem_modify]
  have hold := h _ (List.getElem_mem (List.length_modify .. ▸ hm))
  split
  · exact Drive.react_rising _ t dir step hold
  · exact hold

theorem driveCmd_keeps_mediumWf (dir step : Bool) (h : mediumWf s.drives) : mediumWf (driveCmd dir step s).drives := by
  unfold driveCmd
  cases s.driveSel with
  | none => exact h
  | some d => exact h.modify_react d.val s.now dir step

/-- Of all operations only a control write reaches the drives, and it only forwards a command. -/
theorem exec_keeps_mediumWf {i : Instr} {t : State} (h : mediumWf s.drives) (ht : exec i s = .next t) :
    mediumWf t.drives := by
  by_cases hi : ∀ v, i ≠ .wrControl v
  · rw [exec_keeps_drives ht hi]
    exact h
  · obtain ⟨v, rfl⟩ : ∃ v, i = .wrControl v := by simpa using hi
    rw [exec_wrControl_drives ht]
    exact driveCmd_keeps_mediumWf _ _ h

/-- Settles O57: a delivery leaves the drives, and the operation of an input acts in a state with the same drives. -/
theorem mediumStaysAStream : Obligations.MediumStaysAStream := by
  refine ⟨mediumWf_reset, fun s t h ht => ?_⟩
  rcases step_cases s with ⟨-, hd⟩ | ⟨x, is, j, -, -, -, he⟩
  · rw [hd] at ht
    cases ht
    rw [deliver_drives]
    exact h
  · rw [he] at ht
    exact exec_keeps_mediumWf (s := { s with now := max s.now x.time, inputs := is }) h ht

/-! ### Due timers go before an access (R43) -/

/-- One timer armed for a time not after the access is enough: the earliest is armed no later. -/
theorem timerFirst_access_of_due {tm : Timers} {k : TimerId} {f n : Nat} (hk : tm.get k = some f) (hf : f ≤ n)
    (t : Nat) (w : Bool) (a : Nat) (v : Byte) : timerFirst tm n (.access t w a v) = true := by
  cases he : earliest tm with
  | none =>
    rw [(earliest_eq_none tm).1 he k] at hk
    cases hk
  | some p =>
    have hmin := (earliest_eq_some tm p.1 p.2 he).2 k f hk
    have hp : p.2 ≤ n := by omega
    simp only [timerFirst, he, hp, decide_true]

/-- With the gate open the head of the pending inputs comes next. -/
theorem nextInput_of_opened {i : Input} {is : List Input} (hg : s.gate = .opened) (hin : s.inputs = i :: is) :
    nextInput s = some (i, is) := by
  simp only [nextInput, hg, hin]

/-- A delivery takes no input: no callback reads or writes the pending ones. -/
theorem deliver_inputs (s : State) : (deliver s).inputs = s.inputs := by
  apply deliver_preserves (P := fun u => u.inputs = s.inputs) rfl
  · exact fun _ _ => rfl
  · intro u hu
    rw [tickLock_frame]
    exact hu
  · intro u hu
    rw [tickByte_frame]
    exact hu

/-- Settles O41: the due timer keeps the access from being fetched, so the scheduler moves, and a delivery takes no
input. -/
theorem dueTimersGoBeforeAHostAccess : Obligations.DueTimersGoBeforeAHostAccess := by
  intro s t w a v is k f hin hk hf hg
  have hfirst : timerFirst s.timers (max s.now t) (.access t w a v) = true := timerFirst_access_of_due hk hf t w a v
  have hfetch : fetch s = none := by
    rw [fetch, nextInput_of_opened hg hin]
    exact if_pos hfirst
  have hstep : step s = exec .deliver s := by rw [step, hfetch]
  exact ⟨hstep, deliver s, hstep, deliver_inputs s⟩

end Sys2Proof.Machine
end

section
/-! The encodings (rules R47 to R53, R58): the decoder reads back what the encoder writes, every `BUS` word falls in the one
row of its operation, a placed word is the one the next step runs, and the bits no rule names have no effect. -/

namespace Sys2Proof

/-! ### The encoder (R47, R53) -/

/-- The byte of an `EV` code decodes to the code's event. -/
theorem decode_evBytes (c : EvCode) : decode (evBytes c) = decodeEv c := by
  have hhigh : (c.setWidth 8).extractLsb' 3 5 = 0 := by
    ext i hi
    simp
  have hcode : (c.setWidth 8).extractLsb' 0 3 = c := by
    rw [BitVec.extractLsb'_setWidth_of_le (by decide), BitVec.extractLsb'_eq_self]
  simp only [evBytes, decode, hhigh, if_true, hcode]

/-- The bytes of an operation are those of its `BUS` word or those of its event code. -/
theorem encode_cases {i : Instr} {bs : List Byte} (h : encode i = some bs) :
    (∃ w, encodeBus i = some w ∧ bs = busBytes w) ∨ (∃ c, encodeEv i = some c ∧ bs = evBytes c) := by
  unfold encode at h
  cases hw : encodeBus i with
  | some w =>
    rw [hw] at h
    exact .inl ⟨w, rfl, (Option.some.inj h).symm⟩
  | none =>
    cases hc : encodeEv i with
    | some c =>
      rw [hw, hc] at h
      exact .inr ⟨c, rfl, (Option.some.inj h).symm⟩
    | none =>
      rw [hw, hc] at h
      cases h

/-- The decoder inverts the encoder on `BUS` words: bit 3 of the byte, which tells the two control writes apart, is where
well-formedness puts it (R48). -/
theorem decodeBus_of_encodeBus {i : Instr} {w : BusWord} (hwf : i.wf = true) (h : encodeBus i = some w) :
    decodeBus w = i := by
  cases i with
  | wrControl v =>
    have hbit : v.getLsbD 3 = false := by simpa only [Instr.wf, Bool.not_eq_true'] using hwf
    cases h
    rw [decodeBus_busWord, hbit]
    rfl
  | wrControlWren v =>
    have hbit : v.getLsbD 3 = true := hwf
    cases h
    rw [decodeBus_busWord, hbit]
    rfl
  | _ => cases h <;> simp [decodeBus_busWord]

/-- The decoder inverts the encoder on event codes. -/
theorem decodeEv_of_encodeEv {i : Instr} {c : EvCode} (h : encodeEv i = some c) : decodeEv c = .ok i := by
  cases i <;> cases h <;> rfl

/-- Settles O52: an encoding is that of a `BUS` word or of an event code, and the decoder inverts the encoder on each. -/
theorem decodeOfEncodeIsTheOperation : Obligations.DecodeOfEncodeIsTheOperation := by
  intro i bs hwf h
  obtain ⟨w, hw, rfl⟩ | ⟨c, hc, rfl⟩ := encode_cases h
  · rw [decode_busBytes, decodeBus_of_encodeBus hwf hw]
  · rw [decode_evBytes, decodeEv_of_encodeEv hc]

/-! ### The rows (R58) -/

/-- A word is put together from its three fields (R47). -/
@[simp] theorem busWord_fields (w : BusWord) : busWord (busW w) (busPort w) (busData w) = w := by
  have hw : BitVec.ofBool (busW w) = w.extractLsb' 10 1 := by
    ext i hi
    simp [busW, show i = 0 by omega]
  have hhigh : (BitVec.ofBool (busW w) ++ busPort w : BitVec 3) = w.extractLsb' 8 3 := by
    rw [hw]
    exact BitVec.extractLsb'_append_extractLsb'_eq_extractLsb' rfl
  calc busWord (busW w) (busPort w) (busData w)
      = w.extractLsb' 8 3 ++ w.extractLsb' 0 8 := congrArg (· ++ busData w) hhigh
    _ = w.extractLsb' 0 11 := BitVec.extractLsb'_append_extractLsb'_eq_extractLsb' rfl
    _ = w := BitVec.extractLsb'_eq_self

/-- Masking goes field by field. -/
theorem busWord_and_busWord (w w' : Bool) (p p' : BitVec 2) (v v' : Byte) :
    busWord w p v &&& busWord w' p' v' = busWord (w && w') (p &&& p') (v &&& v') := by
  have hhigh : (BitVec.ofBool w ++ p) &&& (BitVec.ofBool w' ++ p') = BitVec.ofBool (w && w') ++ (p &&& p') := by
    rw [BitVec.and_append, BitVec.ofBool_and_ofBool]
  exact BitVec.and_append.trans (congrArg (· ++ (v &&& v')) hhigh)

/-- The operation of a word lies in its own row. -/
theorem decodeBus_wf (w : BusWord) : (decodeBus w).wf = true := by
  unfold decodeBus
  split_ifs with hport hw hbit
  case pos => exact hbit
  case neg => simp only [Instr.wf, hbit, Bool.not_false]
  all_goals rfl

/-- The row with these `W` and `PORT` fields and this bit 3 of `DATA` (R58). -/
def busRow (w : Bool) (port : BitVec 2) (bit3 : Bool) : Row :=
  if port = 0 then if w then if bit3 then ⟨11, 0x708, 0x408⟩ else ⟨11, 0x708, 0x400⟩ else ⟨11, 0x700, 0x000⟩
  else if port = 1 then if w then ⟨11, 0x700, 0x500⟩ else ⟨11, 0x700, 0x100⟩
  else if port = 2 then if w then ⟨11, 0x700, 0x600⟩ else ⟨11, 0x700, 0x200⟩
  else ⟨11, 0x300, 0x300⟩

theorem row_decodeBus (w : BusWord) :
    (decodeBus w).row = some (busRow (busW w) (busPort w) ((busData w).getLsbD 3)) := by
  unfold decodeBus busRow
  split_ifs <;> rfl

theorem busRow_width (w : Bool) (port : BitVec 2) (bit3 : Bool) : (busRow w port bit3).width = 11 := by
  unfold busRow
  split_ifs <;> rfl

/-- Every row of 11 bits is the row of some fields. -/
theorem row_eq_busRow {j : Instr} {r : Row} (h : j.row = some r) (hwidth : r.width = 11) :
    ∃ w port bit3, r = busRow w port bit3 := by
  cases j with
  | rdStatus => cases h; exact ⟨false, 0, false, rfl⟩
  | wrControl v => cases h; exact ⟨true, 0, false, rfl⟩
  | wrControlWren v => cases h; exact ⟨true, 0, true, rfl⟩
  | rdDrvstat => cases h; exact ⟨false, 1, false, rfl⟩
  | wrDrvsel v => cases h; exact ⟨true, 1, false, rfl⟩
  | rdData => cases h; exact ⟨false, 2, false, rfl⟩
  | wrData v => cases h; exact ⟨true, 2, false, rfl⟩
  | notDecoded w => cases h; exact ⟨w, 3, false, rfl⟩
  | _ => cases h <;> cases hwidth

/-- The bits that rows fix, `W`, `PORT` and bit 3 of `DATA`, are those of the mask `0x708`. -/
theorem toNat_and_rowBits (w : BusWord) :
    w.toNat &&& 0x708 = (busWord (busW w) (busPort w) (if (busData w).getLsbD 3 then 8 else 0)).toNat := by
  have hport : busPort w &&& 3 = busPort w := BitVec.and_allOnes
  have hdata : busData w &&& 8 = if (busData w).getLsbD 3 then 8 else 0 := BitVec.and_twoPow _ 3
  calc w.toNat &&& 0x708
      = (busWord (busW w) (busPort w) (busData w) &&& busWord true 3 8).toNat := by
        rw [busWord_fields, BitVec.toNat_and]; rfl
    _ = _ := by rw [busWord_and_busWord, Bool.and_true, hport, hdata]

/-- A word falls in a row exactly when that is the row of its own fields. -/
theorem falls_in_busRow_iff (w : BusWord) (a : Bool) (p : BitVec 2) (b : Bool) :
    w.toNat &&& (busRow a p b).mask = (busRow a p b).value ↔
      busRow a p b = busRow (busW w) (busPort w) ((busData w).getLsbD 3) := by
  have hmask : 0x708 &&& (busRow a p b).mask = (busRow a p b).mask := by
    unfold busRow
    split_ifs <;> rfl
  rw [← hmask, ← Nat.and_assoc, toNat_and_rowBits]
  generalize busW w = a', busPort w = p', (busData w).getLsbD 3 = b'
  revert a p b a' p' b'
  decide +kernel

/-- Settles O53: a row of 11 bits is the row of some fields, and a word falls in it exactly when those are the word's. -/
theorem everyBusWordFallsInOneRow : Obligations.EveryBusWordFallsInOneRow := by
  intro w
  refine ⟨decodeBus_wf w, _, row_decodeBus w, busRow_width _ _ _, (falls_in_busRow_iff w _ _ _).2 rfl, ?_⟩
  intro j r' hrow hwidth hfalls
  obtain ⟨a, p, b, rfl⟩ := row_eq_busRow hrow hwidth
  exact (falls_in_busRow_iff w a p b).1 hfalls

/-! ### Words numbered as the opcode table numbers them -/

/-- A word of up to 11 bits is read as a `BUS` word. -/
theorem decodeTableWord_bus {n : Nat} (h : n < 2048) : decodeTableWord 16 n = some (decodeBus (BitVec.ofNat 11 n)) := by
  have hlo : (BitVec.ofNat 11 n).extractLsb' 0 8 = BitVec.ofNat 8 n := by
    apply BitVec.eq_of_toNat_eq
    simp [BitVec.extractLsb'_toNat]
  have hhi : ((BitVec.ofNat 11 n).extractLsb' 8 3).setWidth 8 = BitVec.ofNat 8 (n / 256) := by
    apply BitVec.eq_of_toNat_eq
    simp [BitVec.extractLsb'_toNat, Nat.shiftRight_eq_div_pow]
    omega
  have hbytes : [BitVec.ofNat 8 n, BitVec.ofNat 8 (n / 256)] = busBytes (BitVec.ofNat 11 n) := by
    rw [busBytes, hlo, hhi]
  rw [decodeTableWord, if_neg (by decide), if_neg (by omega), if_neg (by decide), if_pos (by decide), hbytes,
    decode_busBytes, Except.toOption]

/-- Exactly the event codes above 4 are unused (R53). -/
theorem decodeEv_eq_unused_iff (c : EvCode) : decodeEv c = .error (.unusedEvent c) ↔ 5 ≤ c.toNat := by
  revert c
  decide

/-- Settles O54: the `BUS` words by the decoding of their fields, the event codes by rule R53's list. -/
theorem wordsOfTheSpecDecode : Obligations.WordsOfTheSpecDecode := by
  refine ⟨?_, ?_, ?_, ?_, ?_, ?_, ?_, ?_, rfl, rfl, decodeEv_eq_unused_iff⟩
  all_goals exact decodeTableWord_bus (by decide)

end Sys2Proof

namespace Sys2Proof.Machine

/-! ### A placed word (R91) -/

/-- The address of a port below 3, and the first address above the three, have the port's number. -/
theorem portOf_base_add (c : Config) (p : BitVec 2) : portOf c (c.portBase + p.toNat) = p := by
  have hp : p = 0 ∨ p = 1 ∨ p = 2 ∨ p = 3 := by revert p; decide
  rcases hp with rfl | rfl | rfl | rfl <;> simp [portOf]

/-- An access goes before timers that are armed for later times. -/
theorem timerFirst_access_of_ahead {tm : Timers} {n : Nat} (h : ∀ k f, tm.get k = some f → n < f) (t : Nat) (w : Bool)
    (a : Nat) (v : Byte) : timerFirst tm n (.access t w a v) = false := by
  cases he : earliest tm with
  | none => simp only [timerFirst, he]
  | some p =>
    have hp : n < p.2 := h p.1 p.2 (earliest_eq_some tm p.1 p.2 he).1
    simp only [timerFirst, he, decide_eq_false (Nat.not_le.2 hp)]

/-- With the gate open and no timer due, the step is the operation of the next access. -/
theorem step_of_access {s : State} {t : Nat} {w : Bool} {a : Nat} {v : Byte} {is : List Input} (hg : s.gate = .opened)
    (hin : s.inputs = .access t w a v :: is) (hahead : ∀ k f, s.timers.get k = some f → max s.now t < f) :
    step s = exec (decodeBus (busWord w (portOf s.cfg a) v)) { s with now := max s.now t, inputs := is } := by
  have hfirst : timerFirst s.timers (max s.now t) (.access t w a v) = false := timerFirst_access_of_ahead hahead t w a v
  have hfetch : fetch s =
      some ((Input.access t w a v).bytes s.cfg, { s with now := max s.now t, inputs := is }) := by
    rw [fetch, nextInput_of_opened hg hin]
    exact if_neg (Bool.eq_false_iff.1 hfirst)
  rw [step, hfetch]
  simp only [input_decodes]

theorem dropDue_get (n : Nat) (tm : Timers) (k : TimerId) :
    (dropDue n tm).get k = (tm.get k).filter fun u => decide (n < u) := by
  cases k <;> rfl

/-- No timer due at or before the time dropped to is left. -/
theorem dropDue_ahead {n : Nat} {tm : Timers} {k : TimerId} {f : Nat} (h : (dropDue n tm).get k = some f) : n < f := by
  rw [dropDue_get, Option.filter_eq_some_iff] at h
  exact of_decide_eq_true h.2

/-- The step from a state where a `BUS` word was placed runs the word's operation. -/
theorem step_placeBus (w : BusWord) (s : State) :
    step (placeBus w s) = exec (decodeBus w) { s with gate := .opened, timers := dropDue s.now s.timers } := by
  have hahead (k : TimerId) (f : Nat) (h : (placeBus w s).timers.get k = some f) :
      max (placeBus w s).now s.now < f := by
    have hf : s.now < f := dropDue_ahead h
    exact max_lt hf hf
  rw [step_of_access rfl rfl hahead]
  simp only [placeBus, portOf_base_add, busWord_fields, max_self]

/-- Settles O46: the word is placed as a `BUS` word, and its bytes are read as the same one. -/
theorem placedWordRunsNext : Obligations.PlacedWordRunsNext := by
  intro s w i hw hi
  rw [decodeTableWord_bus hw] at hi
  cases hi
  exact step_placeBus (BitVec.ofNat 11 w) s

/-! ### Ignored bits (R48, R50) -/

/-- Bytes that agree in their low `n` bits agree in each of these. -/
theorem getLsbD_eq_of_low_eq {v v' : Byte} {n : Nat} (h : v.extractLsb' 0 n = v'.extractLsb' 0 n) {i : Nat} (hi : i < n) :
    v.getLsbD i = v'.getLsbD i := by
  have hbit := congrArg (·.getLsbD i) h
  simpa only [BitVec.getLsbD_extractLsb', hi, decide_true, Bool.true_and, Nat.zero_add] using hbit

/-- A control write sees its byte through the five fields of rule R48 only. -/
theorem exec_wrControl_congr {v v' : Byte} (hdir : ctlDir v = ctlDir v') (hstep : ctlStep v = ctlStep v')
    (hrden : ctlRden v = ctlRden v') (hwren : ctlWren v = ctlWren v') (hcrcen : ctlCrcen v = ctlCrcen v') (s : State) :
    exec (.wrControl v) s = exec (.wrControl v') s := by
  simp only [exec, execWrControl, controlWrite, latch, hdir, hstep, hrden, hwren, hcrcen]

/-- A drive-select write sees its byte through the two fields of rule R50 only. -/
theorem exec_wrDrvsel_congr {v v' : Byte} (hsel : selSel v = selSel v') (hdrv : selDrv v = selDrv v') (s : State) :
    exec (.wrDrvsel v) s = exec (.wrDrvsel v') s := by
  simp only [exec, execWrDrvsel, selection, hsel, hdrv]

/-- Settles O39: the fields the two writes see lie in the low five and the low four bits. -/
theorem ignoredBitsHaveNoEffect : Obligations.IgnoredBitsHaveNoEffect := by
  constructor
  · intro v v' s h
    have hbit {i : Nat} (hi : i < 5) : v.getLsbD i = v'.getLsbD i := getLsbD_eq_of_low_eq h hi
    exact exec_wrControl_congr (hbit (by decide)) (hbit (by decide)) (hbit (by decide)) (hbit (by decide))
      (hbit (by decide)) s
  · intro v v' s h
    have hdrv : v.extractLsb' 0 3 = v'.extractLsb' 0 3 := by
      apply BitVec.eq_of_getLsbD_eq
      intro i hi
      simp only [BitVec.getLsbD_extractLsb', Nat.zero_add, getLsbD_eq_of_low_eq h (Nat.lt_succ_of_lt hi)]
    exact exec_wrDrvsel_congr (getLsbD_eq_of_low_eq h (by decide)) (congrArg BitVec.toFin hdrv) s

end Sys2Proof.Machine
end

section
/-! Calls of `SEP`, one and in a row: the two branches of a call, the bounds of the clock's advance, and the order of the
edges a run finds (rules R61 to R63). -/

namespace Sys2Proof.Machine

/-! ### One call (R61) -/

/-- A call moves the clock to the end of its window and puts the half-bit in the result latch. -/
theorem exec_sep (s : State) :
    exec .sep s = .next { s with pllTime := (sepAt s s.pllTime).2, microBit := (sepAt s s.pllTime).1 } := rfl

theorem sepAt_of_edge_in {s : State} {c e : Nat} (h : nextTransition s c = some e) (he : e < c + s.cfg.halfBit) :
    sepAt s c = (true, e + (s.cfg.halfBit - s.cfg.halfBit / 2)) := by
  simp only [sepAt, centre, h, if_pos he]

theorem sepAt_of_no_edge_in {s : State} {c : Nat}
    (h : ∀ e, nextTransition s c = some e → c + s.cfg.halfBit ≤ e) : sepAt s c = (false, c + s.cfg.halfBit) := by
  rcases sepAt_cases s c with ⟨e, he, -, hlt, -⟩ | ⟨-, hrun⟩
  · exact absurd (h e he) (Nat.not_le.2 hlt)
  · exact hrun

/-- A window that gives 1 found an edge, and the next window starts half of `H`, rounded up, after it. -/
theorem sepAt_next_of_one {s : State} {c e : Nat} (h : nextTransition s c = some e) (hone : (sepAt s c).1 = true) :
    (sepAt s c).2 = e + (s.cfg.halfBit - s.cfg.halfBit / 2) := by
  rcases sepAt_cases s c with ⟨e', he', -, -, hone'⟩ | ⟨-, hzero⟩
  · cases he'.symm.trans h
    rw [hone']
  · rw [hzero] at hone
    cases hone

/-- Settles O5: the two branches of the window at `PLL_TIME`. -/
theorem sepRecoversOneHalfBit : Obligations.SepRecoversOneHalfBit := by
  intro s
  constructor
  · intro e he hlt
    rw [exec_sep, sepAt_of_edge_in he hlt]
  · intro h
    rw [exec_sep, sepAt_of_no_edge_in h]

/-! ### Calls in a row (R62, R63) -/

section Run

variable {ss : Nat → State} (hrun : ∀ n, exec .sep (ss n) = .next (ss (n + 1)))
include hrun

theorem sepRun_cfg (n : Nat) : (ss n).cfg = (ss 0).cfg := by
  induction n with
  | zero => rfl
  | succ n ih => exact (exec_keeps_cfg (hrun n)).trans ih

theorem sepRun_pllTime_succ (n : Nat) : (ss (n + 1)).pllTime = (sepAt (ss n) (ss n).pllTime).2 := by
  rw [exec_next _ _ _ (hrun n), sep_pllTime]

theorem sepRun_microBit_succ (n : Nat) : (ss (n + 1)).microBit = (sepAt (ss n) (ss n).pllTime).1 := by
  rw [exec_next _ _ _ (hrun n), sep_bit]

theorem sepRun_pllTime_mono : Monotone fun n => (ss n).pllTime :=
  monotone_nat_of_le_succ fun n => by
    rw [sepRun_pllTime_succ hrun]
    exact sepAt_advance (ss n) _

/-- By induction on the number of calls; `sep_advance` bounds the advance of each. -/
theorem sepRun_advance {h : Nat} (hh : (ss 0).cfg.halfBit = h) (hpos : 1 ≤ h) (n : Nat) :
    (ss 0).pllTime + n * (h - h / 2) ≤ (ss n).pllTime ∧
    (ss n).pllTime ≤ (ss 0).pllTime + n * (h + (h - h / 2) - 1) := by
  induction n with
  | zero => simp
  | succ n ih =>
    have hcall := sep_advance (ss n)
    rw [sep_pllTime, ← sepRun_pllTime_succ hrun, sepRun_cfg hrun, hh] at hcall
    rw [Nat.add_one_mul, Nat.add_one_mul]
    omega

/-- The call that reports an edge takes the clock past it. -/
theorem sepRun_lt_pllTime_of_one {j e : Nat} (hpos : 1 ≤ (ss 0).cfg.halfBit)
    (he : nextTransition (ss j) (ss j).pllTime = some e) (hone : (ss (j + 1)).microBit = true) :
    e < (ss (j + 1)).pllTime := by
  rw [sepRun_microBit_succ hrun] at hone
  rw [sepRun_pllTime_succ hrun, sepAt_next_of_one he hone, sepRun_cfg hrun]
  omega

end Run

/-- Settles O6. -/
theorem sepClockAdvanceIsBounded : Obligations.SepClockAdvanceIsBounded :=
  fun _ n hpos hrun => sepRun_advance hrun rfl hpos n

/-- Settles O7: the call that reports the edge takes the clock past it, the clock never goes back, and a query answers no
time before the clock it asks from. -/
theorem sepNeverReportsAnEdgeTwice : Obligations.SepNeverReportsAnEdgeTwice := by
  intro ss j k e e' hpos hrun hjk he hone he'
  calc e < (ss (j + 1)).pllTime := sepRun_lt_pllTime_of_one hrun hpos he hone
    _ ≤ (ss k).pllTime := sepRun_pllTime_mono hrun hjk
    _ ≤ e' := nextTransition_ge (ss k) _ e' he'

end Sys2Proof.Machine
end

section
/-! The synchronizer: the tick of the search and of the mark in full, the run of 29 unequal pairs, and the order of its
states (rules R67 to R74, R128, R129). -/

namespace Sys2Proof.Machine

variable {s : State}

/-! ### What `TICK_LOCK` runs (R68, R73) -/

theorem tickLock_of_searchingSync (hr : s.mode = .reading) (hs : s.syncState = .searchingSync) :
    tickLock s = searchSync s := by
  simp only [tickLock, hr, hs, if_true]

theorem tickLock_of_searchingMark (hr : s.mode = .reading) (hs : s.syncState = .searchingMark) :
    tickLock s = searchMark s := by
  simp only [tickLock, hr, hs, if_true]

theorem tickLock_of_not_searching (h : s.mode ≠ .reading ∨ s.syncState = .locked) : tickLock s = s := by
  unfold tickLock
  rcases h with hr | hl
  · rw [if_neg hr]
  · rw [hl]
    exact ite_self s

/-- Settles O10. -/
theorem lockTickIsIdleOutsideTheSearch : Obligations.LockTickIsIdleOutsideTheSearch :=
  fun _ h => congrArg Host.Outcome.next (tickLock_of_not_searching h)

/-- Settles O14: `SYNC_RESET` is the update the rule writes out. -/
theorem syncResetClearsTheTransientState : Obligations.SyncResetClearsTheTransientState := fun _ => rfl

/-! ### The tick of the search (R69, R70) -/

/-- The lock transition, rearmed: the counter plays no part in the half-bit it may discard. -/
theorem rearmLock_lockFound (b : Bool) (q : State) (n : Nat) :
    rearmLock (lockFound b { q with syncCnt := n }) =
      let p := if b then (sep q).2 else q
      { p with
        syncCnt := n, clkSr := 0, dataSr := 0, syncState := .searchingMark
        timers := q.timers.set .lock (some (q.now + (p.pllTime + 2 * q.cfg.halfBit - q.now))) } := by
  cases b <;> rfl

theorem searchSync_of_equal_pair (h : (sep s).1 = (sep (sep s).2).1) :
    searchSync s = rearmLock { (sep (sep s).2).2 with syncCnt := 0 } :=
  if_pos h

theorem searchSync_of_unequal_pair (h : (sep s).1 ≠ (sep (sep s).2).1) (hn : s.syncCnt + 1 ≠ 29) :
    searchSync s = rearmLock { (sep (sep s).2).2 with syncCnt := s.syncCnt + 1 } :=
  (if_neg h).trans (if_neg hn)

theorem searchSync_of_last_unequal_pair (h : (sep s).1 ≠ (sep (sep s).2).1) (hn : s.syncCnt + 1 = 29) :
    searchSync s = rearmLock (lockFound (sep (sep s).2).1 { (sep (sep s).2).2 with syncCnt := 29 }) := by
  rw [← hn]
  exact (if_neg h).trans (if_pos hn)

/-- Settles O8: the three arms of the search's tick. -/
theorem searchTickCountsUnequalPairs : Obligations.SearchTickCountsUnequalPairs := by
  intro s hr hs
  have htick : exec .tickLock s = .next (searchSync s) := congrArg _ (tickLock_of_searchingSync hr hs)
  rw [htick]
  refine ⟨fun h => ?_, fun h hn => ?_, fun h hn => ?_⟩
  · rw [searchSync_of_equal_pair h]
    rfl
  · rw [searchSync_of_unequal_pair h hn]
    rfl
  · rw [searchSync_of_last_unequal_pair h hn, rearmLock_lockFound]
    rfl

/-! ### 29 unequal pairs in a row (R129) -/

section Run

variable {t : State} (hr : s.mode = .reading) (hs : s.syncState = .searchingSync)
  (hpair : (sep s).1 ≠ (sep (sep s).2).1) (h : exec .tickLock s = .next t)
include hr hs hpair h

theorem unequal_pair_counts (hn : s.syncCnt + 1 ≠ 29) :
    t.mode = .reading ∧ t.syncState = .searchingSync ∧ t.syncCnt = s.syncCnt + 1 := by
  obtain ⟨-, hcount, -⟩ := searchTickCountsUnequalPairs s hr hs
  cases h.symm.trans (hcount hpair hn)
  exact ⟨hr, hs, rfl⟩

theorem last_unequal_pair_locks (hn : s.syncCnt + 1 = 29) :
    t.syncState = .searchingMark ∧ t.syncCnt = 29 ∧ t.clkSr = 0 ∧ t.dataSr = 0 := by
  obtain ⟨-, -, hlock⟩ := searchTickCountsUnequalPairs s hr hs
  cases h.symm.trans (hlock hpair hn)
  exact ⟨rfl, rfl, rfl, rfl⟩

end Run

/-- Settles O12, by induction on the number of ticks: before the 29th the counter holds that number. -/
theorem lockTakesTwentyNineUnequalPairs : Obligations.LockTakesTwentyNineUnequalPairs := by
  intro ss hr hs hn hrun
  have hcounting : ∀ k, k < 29 →
      (ss k).mode = .reading ∧ (ss k).syncState = .searchingSync ∧ (ss k).syncCnt = k := by
    intro k hk
    induction k with
    | zero => exact ⟨hr, hs, hn⟩
    | succ k ih =>
      obtain ⟨hrk, hsk, hnk⟩ := ih (by omega)
      obtain ⟨htick, hpair⟩ := hrun k (by omega)
      have hnext := unequal_pair_counts hrk hsk hpair htick (by omega)
      rwa [hnk] at hnext
  obtain ⟨hr28, hs28, hn28⟩ := hcounting 28 (by decide)
  obtain ⟨htick, hpair⟩ := hrun 28 (by decide)
  exact ⟨fun k hk => (hcounting k hk).2, last_unequal_pair_locks hr28 hs28 hpair htick (by omega)⟩

/-! ### The mark (R71, R72) -/

@[simp] theorem shiftCell_now (b : Bool) (s : State) : (shiftCell b s).2.now = s.now := by rw [shiftCell_frame]

@[simp] theorem shiftCell_timers (b : Bool) (s : State) : (shiftCell b s).2.timers = s.timers := by
  rw [shiftCell_frame]

/-- Bit `k` of `DATA_SR` stands `n` places higher after `n` cells, as long as it is not shifted out. -/
theorem shiftCells_dataSr_bit (b : Bool) (n k : Nat) (s : State) (h : k + n < 8) :
    (shiftCells b n s).dataSr.getLsbD (k + n) = s.dataSr.getLsbD k := by
  induction n generalizing k s with
  | zero => rfl
  | succ n ih =>
    calc (shiftCells b n (shiftCell b s).2).dataSr.getLsbD (k + (n + 1))
        = (shiftCells b n (shiftCell b s).2).dataSr.getLsbD (k + 1 + n) := by rw [Nat.add_right_comm, Nat.add_assoc]
      _ = (shiftCell b s).2.dataSr.getLsbD (k + 1) := ih (k + 1) _ (by omega)
      _ = s.dataSr.getLsbD k := by rw [shiftCell_dataSr, shiftIn_bit _ _ _ (by omega)]; simp

/-- The data 1 that ends the search for the mark is the top bit of the mark's byte. -/
theorem markByte_top_bit (h : (shiftCell false s).1 = true) :
    (shiftCells false 7 (shiftCell false s).2).dataSr.getLsbD 7 = true := by
  have hbit := shiftCells_dataSr_bit false 7 0 (shiftCell false s).2 (by decide)
  rw [Nat.zero_add, shiftCell_dataSr false s, shiftIn_bit _ _ 0 (by decide), if_pos rfl, h] at hbit
  exact hbit

theorem markFound_dataSr (s : State) : (markFound s).dataSr = (shiftCells false 7 s).dataSr := by rw [markFound_frame]

theorem markFound_crc (s : State) : (markFound s).crc = s.crc := by rw [markFound_frame]

/-- Mark found, with the timers and the state in place before the byte is announced; `q` is the state after the seven
cells. -/
theorem markFound_eq_byteReady {q : State} (hq : shiftCells false 7 s = q) :
    markFound s = byteReady { q with
      timers    := { s.timers with byte := some (s.now + (q.pllTime - s.now)), lock := none }
      syncState := .locked } := by
  have hmark : markFound s =
      byteReady { disarm .lock (arm .byte (q.pllTime - q.now) q) with syncState := .locked } := by
    rw [← hq]
    rfl
  have hframe := shiftCells_frame false 7 s
  rw [hq] at hframe
  obtain ⟨p, x, d, c, rfl⟩ : ∃ p x d c, q = { s with pllTime := p, clkSr := x, dataSr := d, crc := c } :=
    ⟨_, _, _, _, hframe⟩
  exact hmark

/-- Settles O9: the data 1 moves up to bit 7 with the seven cells after it; none of the cells takes a CRC step. -/
theorem markTickFindsTheFirstDataOne : Obligations.MarkTickFindsTheFirstDataOne := by
  intro s hr hs
  have htick : exec .tickLock s = .next (searchMark s) := congrArg _ (tickLock_of_searchingMark hr hs)
  constructor
  · intro hb
    rw [htick, searchMark_of_data_zero hb, rearmLock, lockPeriod, arm, shiftCell_now, shiftCell_timers,
      shiftCell_cfg]
    rfl
  · intro hb
    have hmark := markFound_eq_byteReady (s := (shiftCell false s).2) rfl
    rw [shiftCell_now, shiftCell_timers] at hmark
    refine ⟨markFound (shiftCell false s).2, congrArg Host.Outcome.next hmark.symm, ?_, ?_, ?_⟩
    · rw [htick, searchMark_of_data_one hb]
    · rw [markFound_dataSr, markByte_top_bit hb]
    · rw [markFound_crc, shiftCell_crc_same false s rfl]

/-- The mark's eight cells are 16 half-bits of at least half of `H` each. -/
theorem markCells_advance (h : 1 ≤ s.cfg.halfBit) :
    s.pllTime + 8 * s.cfg.halfBit ≤ (shiftCells false 7 (shiftCell false s).2).pllTime := by
  have hcell := (shiftCell_advance false s h).1
  have hcells := (shiftCells_advance false 7 (shiftCell false s).2 (by rwa [shiftCell_cfg])).1
  rw [shiftCell_cfg] at hcells
  omega

/-- Settles O11: eight cells take the separator's clock `8H` on at least, and the tick trails it by `2H`. -/
theorem markIsAnnouncedAheadOfTheByteTimer : Obligations.MarkIsAnnouncedAheadOfTheByteTimer := by
  intro s t hH hr hs hnow hb ht
  have hcells := markCells_advance hH
  have hmark : t = markFound (shiftCell false s).2 := by
    rw [exec_next _ _ _ ht, tickLock_of_searchingMark hr hs, searchMark_of_data_one hb]
  rw [hmark, markFound_frame, shiftCell_now]
  have hbyte : s.now + ((shiftCells false 7 (shiftCell false s).2).pllTime - s.now) =
      (shiftCells false 7 (shiftCell false s).2).pllTime := by omega
  exact ⟨congrArg some hbyte, by dsimp only; omega, rfl, rfl⟩

/-! ### The order of the states (R67, R128) -/

theorem searchMark_rank (hs : s.syncState = .searchingMark) : s.syncState.rank ≤ (searchMark s).syncState.rank := by
  cases hb : (shiftCell false s).1 with
  | true =>
    rw [searchMark_of_data_one hb, markFound_frame, hs]
    exact Nat.le_succ 1
  | false =>
    rw [searchMark_of_data_zero hb, shiftCell_frame]
    exact le_refl _

theorem tickLock_rank (s : State) : s.syncState.rank ≤ (tickLock s).syncState.rank := by
  by_cases hr : s.mode = .reading
  · cases hs : s.syncState with
    | searchingSync => exact Nat.zero_le _
    | searchingMark =>
      rw [tickLock_of_searchingMark hr hs, ← hs]
      exact searchMark_rank hs
    | locked => rw [tickLock_of_not_searching (.inr hs), hs]
  · rw [tickLock_of_not_searching (.inl hr)]

theorem tickByte_syncState (s : State) : (tickByte s).syncState = s.syncState := by rw [tickByte_frame]

theorem deliver_rank (s : State) : s.syncState.rank ≤ (deliver s).syncState.rank := by
  apply deliver_preserves (P := fun u => s.syncState.rank ≤ u.syncState.rank) (le_refl _)
  · exact fun _ _ => le_refl _
  · exact fun u hu => hu.trans (tickLock_rank u)
  · exact fun u hu => by rwa [tickByte_syncState]

/-- Settles O13: by cases on the operation; of those left only `TICK_LOCK`, alone or delivered, writes the state. -/
theorem synchronizerNeverStepsBackByItself : Obligations.SynchronizerNeverStepsBackByItself := by
  intro i s t h hwr hon hoff hsync hreset
  have ht := exec_next i s t h
  cases i with
  | wrControl v => exact absurd rfl (hwr v)
  | wrControlWren v => exact ht.elim
  | rdData => rw [ht, readData_frame]
  | wrData v => exact ht.elim
  | tickLock => exact ht ▸ tickLock_rank s
  | tickByte => rw [ht, tickByte_syncState]
  | reset => exact absurd rfl hreset
  | shiftCell b => rw [ht, shiftCell_frame]
  | byteReady => rw [ht, byteReady_frame]
  | readOn => exact absurd rfl hon
  | readOff => exact absurd rfl hoff
  | syncReset => exact absurd rfl hsync
  | deliver => exact ht ▸ deliver_rank s
  | _ => cases h; exact le_refl _

end Sys2Proof.Machine
end

section
/-! The byte assembler and the CRC: one step of the CRC and a run of them, one cell, the byte of eight cells, and the
byte tick with the overrun test and the rearm (rules R75 to R79, R123). -/

namespace Sys2Proof.Machine

/-! ### One step of the CRC (R76) -/

theorem crcNext_eq_ite (c : CrcWord) (d : Bool) :
    crcNext c d = if c.getLsbD 15 ≠ d then (c <<< 1) ^^^ 0x1021 else c <<< 1 := by
  unfold crcNext crcPoly
  cases c.getLsbD 15 <;> cases d <;> simp

theorem crcNext_of_top_bit {c : CrcWord} {d : Bool} (h : c.getLsbD 15 = d) : crcNext c d = c <<< 1 := by
  rw [crcNext_eq_ite, if_neg (not_not_intro h)]

/-- The shift is linear, and so is the feedback: the polynomial is added when exactly one of the two steps adds it. -/
theorem crcNext_xor (c c' : CrcWord) (d d' : Bool) :
    crcNext (c ^^^ c') (xor d d') = crcNext c d ^^^ crcNext c' d' := by
  have htop : xor ((c ^^^ c').getLsbD 15) (xor d d') = xor (xor (c.getLsbD 15) d) (xor (c'.getLsbD 15) d') := by
    simp only [BitVec.getLsbD_xor, Bool.xor_assoc, Bool.xor_left_comm]
  have hpoly : ∀ a b : Bool,
      (if xor a b then crcPoly else 0) = (if a then crcPoly else 0) ^^^ (if b then crcPoly else 0) := by decide
  unfold crcNext
  rw [htop, hpoly, BitVec.shiftLeft_xor_distrib]
  ac_rfl

theorem crc_of_exec_crcStep {d : Bool} {s t : State} (h : exec (.crcStep d) s = .next t) : t.crc = crcNext s.crc d := by
  rw [exec_next _ _ _ h, crcStep]

/-- Settles O16. -/
theorem crcStepIsCrcCcitt : Obligations.CrcStepIsCrcCcitt := by
  intro d s
  rw [← crcNext_eq_ite]
  rfl

/-- Settles O17. -/
theorem crcStepIsLinear : Obligations.CrcStepIsLinear := by
  intro d d' s s' s'' t t' t'' hxor h h' h''
  rw [crc_of_exec_crcStep h, crc_of_exec_crcStep h', crc_of_exec_crcStep h'', hxor, crcNext_xor]

/-- Settles O18: by induction on the steps, each data bit is the register's own top bit, so that every step is a plain
shift; sixteen of them leave nothing of the register. -/
theorem crcOfItsOwnBitsIsZero : Obligations.CrcOfItsOwnBitsIsZero := by
  intro ss hrun
  have hshift : ∀ k, k ≤ 16 → (ss k).crc = (ss 0).crc <<< k := by
    intro k hk
    induction k with
    | zero => exact (BitVec.shiftLeft_zero _).symm
    | succ k ih =>
      have htop : (ss k).crc.getLsbD 15 = (ss 0).crc.getLsbD (15 - k) := by
        rw [ih (by omega), BitVec.getLsbD_shiftLeft]
        simp [show ¬ 15 < k by omega]
      rw [crc_of_exec_crcStep (hrun k (by omega)), crcNext_of_top_bit htop, ih (by omega), BitVec.shiftLeft_add]
  rw [hshift 16 (le_refl _)]
  exact BitVec.shiftLeft_eq_zero (le_refl _)

/-! ### One cell (R75, R131) -/

/-- To shift a bit in is to double modulo 256 and add the bit. -/
theorem shiftIn_eq_ofNat (x : Byte) (b : Bool) : shiftIn x b = BitVec.ofNat 8 (2 * x.toNat + b.toNat) := by
  rw [← Nat.bit_val]
  refine BitVec.eq_of_getLsbD_eq fun n hn => ?_
  rw [shiftIn_bit x b n hn, BitVec.getLsbD_ofNat]
  cases n with
  | zero => simp
  | succ n => simp [hn, Nat.testBit_bit_succ, BitVec.testBit_toNat]

/-- Settles O15. -/
theorem shiftCellEntersOneBitCell : Obligations.ShiftCellEntersOneBitCell := by
  intro allowed s
  refine ⟨crcStep (sep (sep s).2).1 s, rfl, congrArg Host.Outcome.next ?_⟩
  rw [shiftCell_eq, ← shiftIn_eq_ofNat, ← shiftIn_eq_ofNat]
  simp only [Bool.and_eq_true, Bool.not_eq_true', and_assoc]
  rfl

/-! ### The eight cells of a byte (R35, R77) -/

theorem shiftCells_add (b : Bool) (m n : Nat) (s : State) :
    shiftCells b (m + n) s = shiftCells b n (shiftCells b m s) := by
  induction m generalizing s with
  | zero => rw [Nat.zero_add]; rfl
  | succ m ih => rw [Nat.add_right_comm]; exact ih _

/-- The data half-bit of a cell stands at bit `n` after `n` more cells. -/
theorem shiftCells_dataSr_halfBit (b : Bool) (k n : Nat) (s : State) (h : n < 8) :
    (shiftCells b (k + (n + 1)) s).dataSr.getLsbD n = (shiftCell b (shiftCells b k s)).1 := by
  have hbit := shiftCells_dataSr_bit b n 0 (shiftCell b (shiftCells b k s)).2 (by omega)
  rw [Nat.zero_add, shiftCell_dataSr, shiftIn_bit _ _ 0 (by decide), if_pos rfl] at hbit
  rw [shiftCells_add]
  exact hbit

/-- Settles O20: `7 - k` more cells follow the cell at place `k`, and the overrun test is all that goes before the
cells. -/
theorem assembledByteIsItsEightDataHalfBits : Obligations.AssembledByteIsItsEightDataHalfBits := by
  intro s t hr hl ht k hk
  rw [exec_next _ _ _ ht, tickByte_locked_frame hr hl rfl]
  have hbyte := shiftCells_dataSr_halfBit true k (7 - k) (markOverrun s) (by omega)
  rw [show k + (7 - k + 1) = cellsPerByte by unfold cellsPerByte; omega] at hbyte
  exact hbyte

/-! ### The byte announced (R78, R100, R103) -/

theorem resume_of_opened {s : State} (h : s.gate = .opened) : resume s = s := by
  simp only [resume, h]

theorem resume_of_held_read {s : State} (h : s.gate = .blocked .rdData) :
    resume s = emit (.answer s.now 2 s.dataSr) { s with consumed := true, gate := .opened } := by
  simp only [resume, h]

theorem resume_of_held_write {s : State} (h : s.gate = .blocked .wrControl) :
    resume s = emit (.release s.now) { s with gate := .opened } := by
  simp only [resume, h]

/-- Settles O21: the resume, for each value of the gate, of the byte announced. -/
theorem byteReadyAnnouncesAndResumes : Obligations.ByteReadyAnnouncesAndResumes :=
  fun s => ⟨fun h => congrArg Host.Outcome.next (resume_of_opened (s := announce s) h),
    fun h => congrArg Host.Outcome.next (resume_of_held_read (s := announce s) h),
    fun h => congrArg Host.Outcome.next (resume_of_held_write (s := announce s) h)⟩

/-! ### The byte tick (R77, R79, R123) -/

@[simp] theorem shiftCells_now (b : Bool) (n : Nat) (s : State) : (shiftCells b n s).now = s.now := by
  rw [shiftCells_frame]

@[simp] theorem shiftCells_timers (b : Bool) (n : Nat) (s : State) : (shiftCells b n s).timers = s.timers := by
  rw [shiftCells_frame]

@[simp] theorem byteReady_now (s : State) : (byteReady s).now = s.now := by rw [byteReady_frame]

@[simp] theorem byteReady_timers (s : State) : (byteReady s).timers = s.timers := by rw [byteReady_frame]

theorem arm_byteReady (k : TimerId) (n : Nat) (s : State) :
    arm k n (byteReady s) = { byteReady s with timers := s.timers.set k (some (s.now + n)) } := by
  simp [arm]

/-- Settles O19: the cells and the announcement leave `NOW` and the timers, so the rearm counts from the old ones. -/
theorem byteTickAssemblesOneByte : Obligations.ByteTickAssemblesOneByte := by
  intro s
  constructor
  · intro hr hl
    refine ⟨_, rfl, congrArg Host.Outcome.next ?_⟩
    rw [tickByte_locked s hr hl, arm_byteReady, shiftCells_now, shiftCells_timers]
    rfl
  · intro h
    exact congrArg Host.Outcome.next (if_neg (by tauto))

/-- With no access held a byte tick leaves the read going on and its byte unread. -/
theorem tickByte_of_opened {s : State} (hr : s.mode = .reading) (hl : s.syncState = .locked) (hg : s.gate = .opened) :
    (tickByte s).mode = .reading ∧ (tickByte s).syncState = .locked ∧ (tickByte s).gate = .opened ∧
    (tickByte s).overrun = (s.overrun || !s.consumed) ∧ (tickByte s).consumed = false := by
  rw [tickByte_locked_frame hr hl rfl, byteReady_consumed, shiftCells_frame]
  exact ⟨hr, hl, rfl, rfl, by simp [hg]⟩

/-- Settles O23: the first tick finds the byte before it read, the second finds the first one's unread. -/
theorem twoByteReadysWithoutAReadOverrun : Obligations.TwoByteReadysWithoutAReadOverrun := by
  intro s t u hr hl hg hc ht hu
  obtain ⟨hrt, hlt, hgt, hot, hct⟩ := tickByte_of_opened hr hl hg
  rw [← exec_next _ _ _ ht] at hrt hlt hgt hot hct
  obtain ⟨-, -, -, hou, hcu⟩ := tickByte_of_opened hrt hlt hgt
  rw [← exec_next _ _ _ hu] at hou hcu
  exact ⟨by simp [hot, hc], hct, by simp [hou, hct], hcu⟩

/-- A byte is 16 half-bits of at least half of `H` each. -/
theorem byteCells_advance (b : Bool) {s : State} (h : 1 ≤ s.cfg.halfBit) :
    s.pllTime + 8 * s.cfg.halfBit ≤ (shiftCells b cellsPerByte s).pllTime ∧
    (shiftCells b cellsPerByte s).pllTime ≤
      s.pllTime + 16 * (s.cfg.halfBit + (s.cfg.halfBit - s.cfg.halfBit / 2) - 1) := by
  have hcells := shiftCells_advance b cellsPerByte s h
  unfold cellsPerByte at hcells ⊢
  omega

/-- Settles O25: the rearm counts from `NOW` to the separator's clock, which the byte's cells took on past it. -/
theorem nextByteTickKeepsTheDeadline : Obligations.NextByteTickKeepsTheDeadline := by
  intro s t hH hr hl hnow ht
  obtain ⟨hlow, hhigh⟩ : s.pllTime + _ ≤ _ ∧ _ ≤ s.pllTime + _ :=
    byteCells_advance true (s := markOverrun s) hH
  rw [exec_next _ _ _ ht, tickByte_locked_frame hr hl rfl, hnow]
  exact ⟨congrArg some (Nat.add_sub_cancel' (by omega)), hlow, hhigh⟩

end Sys2Proof.Machine
end

section
/-! The scheduler: `ARM` and `DISARM`, which timer `DELIVER` fires, and what a step can take while the host is held and while
nothing is to come (rules R80 to R84, R87 to R90). -/

namespace Sys2Proof

/-- No two timers share a place in the order of rule R84. -/
theorem TimerId.rank_injective : Function.Injective TimerId.rank := by
  intro k j
  cases k <;> cases j <;> decide

end Sys2Proof

namespace Sys2Proof.Machine

variable {s : State}

/-! ### One timer written (R80, R81) -/

theorem Timers.get_set_of_ne (t : Timers) {k j : TimerId} (h : j ≠ k) (v : Option Nat) : (t.set k v).get j = t.get j := by
  rw [Timers.get_set, if_neg h]

/-- Settles O26. -/
theorem armAndDisarmWriteOneTimer : Obligations.ArmAndDisarmWriteOneTimer := by
  constructor
  · intro k n s
    exact ⟨arm k n s, rfl, Timers.get_set_self .., fun j hj => Timers.get_set_of_ne _ hj _, rfl⟩
  · intro k s
    exact ⟨disarm k s, rfl, Timers.get_set_self .., fun j hj => Timers.get_set_of_ne _ hj _, rfl⟩

/-! ### The callbacks (R82, R87, R88) -/

/-- Settles O27: both callbacks are the identity on the state. -/
theorem idleCallbacksHaveNoEffect : Obligations.IdleCallbacksHaveNoEffect := fun _ => ⟨rfl, rfl⟩

/-- The event of a timer runs its callback. -/
theorem exec_tickOf (k : TimerId) (s : State) : exec (tickOf k) s = .next (callback k s) := by
  cases k <;> rfl

/-! ### The timer that fires (R83, R84) -/

/-- The timer found is the one armed timer that no other goes before: the order of rule R84 leaves no tie. -/
theorem earliest_eq_some_iff (t : Timers) (k : TimerId) (f : Nat) :
    earliest t = some (k, f) ↔ t.get k = some f ∧ ∀ j g, t.get j = some g → f < g ∨ (f = g ∧ k.rank ≤ j.rank) := by
  refine ⟨earliest_eq_some t k f, fun ⟨hk, hmin⟩ => ?_⟩
  cases he : earliest t with
  | none =>
    rw [(earliest_eq_none t).1 he k] at hk
    cases hk
  | some p =>
    obtain ⟨j, g⟩ := p
    obtain ⟨hj, hmin'⟩ := earliest_eq_some t j g he
    have hto := hmin j g hj
    have hfrom := hmin' k f hk
    have hrank : j.rank = k.rank := by omega
    have htime : g = f := by omega
    rw [TimerId.rank_injective hrank, htime]

/-- Settles O28: the timer of the premises is the one `earliest` finds. -/
theorem deliverFiresTheEarliestTimer : Obligations.DeliverFiresTheEarliestTimer := by
  intro s k f hk hmin
  have hfire : deliver s = callback k (disarm k { s with now := max s.now f }) := by
    rw [deliver, (earliest_eq_some_iff s.timers k f).2 ⟨hk, hmin⟩]
  exact ⟨deliver s, rfl, by rw [exec_tickOf, hfire]; rfl⟩

/-! ### A quiet block (R90) -/

theorem nextInput_of_no_inputs (h : s.inputs = []) : nextInput s = none := by
  cases hg : s.gate <;> simp [nextInput, hg, h, takeReset]

theorem deliver_of_no_timer (h : ∀ k, s.timers.get k = none) : deliver s = s := by
  rw [deliver, (earliest_eq_none s.timers).2 h]

/-- Settles O29: with no input it is the scheduler's turn, and it finds no timer. -/
theorem quietBlockStaysAsItIs : Obligations.QuietBlockStaysAsItIs := by
  intro s htimers hinputs
  have hfetch : fetch s = none := by rw [fetch, nextInput_of_no_inputs hinputs]
  calc step s = .next (deliver s) := by rw [step, hfetch]; rfl
    _ = .next s := by rw [deliver_of_no_timer htimers]

/-! ### A held host (R89, R102) -/

theorem nextInput_of_held (h : s.gate ≠ .opened) : nextInput s = takeReset s.inputs := by
  cases hg : s.gate with
  | opened => exact absurd hg h
  | blocked op => simp only [nextInput, hg]

/-- Settles O42: a delivery takes no input, and the one input a held host lets through is a reset, whose operation leaves
the others pending. -/
theorem heldHostIssuesNothing : Obligations.HeldHostIssuesNothing := by
  intro s t hg ht
  rcases step_cases s with ⟨-, hd⟩ | ⟨i, is, j, hnext, -, hdec, he⟩
  · rw [hd] at ht
    cases ht
    rw [deliver_inputs]
  · rw [nextInput_of_held hg] at hnext
    obtain ⟨⟨u, e, rfl⟩, hkept⟩ := takeReset_spec _ _ _ hnext
    rw [input_decodes] at hdec
    cases hdec
    rw [he] at ht
    cases ht
    exact hkept

end Sys2Proof.Machine
end

section
/-! The host handshake: the read held until the byte tick, the two status bytes bit by bit, what the writes do and which
are refused, and the step that runs the decoded access (rules R91 to R104). -/

namespace Sys2Proof.Machine

/-! ### A held data read and the byte tick (R100, R123) -/

theorem byteReady_of_held_read {s : State} (h : s.gate = .blocked .rdData) :
    byteReady s = emit (.answer s.now 2 s.dataSr) { s with consumed := true, gate := .opened } :=
  resume_of_held_read (s := announce s) h

@[simp] theorem shiftCells_gate (b : Bool) (n : Nat) (s : State) : (shiftCells b n s).gate = s.gate := by
  rw [shiftCells_frame]

@[simp] theorem shiftCells_history (b : Bool) (n : Nat) (s : State) : (shiftCells b n s).history = s.history := by
  rw [shiftCells_frame]

/-- Settles O24: the byte-ready of the tick answers the held read with what the cells left in `DATA_SR`; the overrun
test before the cells finds the byte before it read. -/
theorem heldReadNeverOverruns : Obligations.HeldReadNeverOverruns := by
  intro s t hr hl hg hc ht
  have hheld : (shiftCells true cellsPerByte (markOverrun s)).gate = .blocked .rdData := by
    rw [shiftCells_gate, markOverrun_gate, hg]
  rw [exec_next _ _ _ ht, tickByte_locked_frame hr hl rfl, byteReady_of_held_read hheld]
  refine ⟨by simp [hc], rfl, rfl, ?_⟩
  simp only [emit_history, shiftCells_now, shiftCells_history, markOverrun_now, markOverrun_history]

/-! ### The two status bytes (R49, R51, R92, R97) -/

@[simp] theorem statusByte_fill (fill : BitVec 5) (b5 b6 b7 : Bool) :
    (statusByte fill b5 b6 b7).extractLsb' 0 5 = fill := by
  unfold statusByte
  exact BitVec.extractLsb'_append_eq_right

@[simp] theorem statusByte_bit5 (fill : BitVec 5) (b5 b6 b7 : Bool) : (statusByte fill b5 b6 b7).getLsbD 5 = b5 := by
  simp only [statusByte, BitVec.getLsbD_append]
  simp

@[simp] theorem statusByte_bit6 (fill : BitVec 5) (b5 b6 b7 : Bool) : (statusByte fill b5 b6 b7).getLsbD 6 = b6 := by
  simp only [statusByte, BitVec.getLsbD_append]
  simp

@[simp] theorem statusByte_bit7 (fill : BitVec 5) (b5 b6 b7 : Bool) : (statusByte fill b5 b6 b7).getLsbD 7 = b7 := by
  simp only [statusByte, BitVec.getLsbD_append]
  simp

theorem selectedSignal_eq_true_iff (s : State) (g : DriveView → Signal) :
    selectedSignal s g = true ↔ ∃ d, s.driveSel = some d ∧ driveSignal s d g s.now = true := by
  unfold selectedSignal
  cases s.driveSel <;> simp

/-- A status bit asserts its condition by being 1 with polarity `high`, and by being 0 with `low`. -/
theorem high_iff_polarize_iff (p : Polarity) (b : Bool) : (p = .high ↔ polarize p b = true) ↔ b = true := by
  cases p <;> simp [polarize]

/-- Settles O30: each bit of the byte is the field or the signal it was made from. -/
theorem statusReadShowsTheSelectedDrive : Obligations.StatusReadShowsTheSelectedDrive := by
  intro s
  refine ⟨statusOf s, rfl, statusByte_fill .., ?_, ?_, statusByte_bit7 ..⟩
  · rw [statusOf, statusByte_bit5, selectedSignal_eq_true_iff]
  · rw [statusOf, statusByte_bit6, selectedSignal_eq_true_iff]

/-- Settles O31: as for the control/status read, with the two upper bits in their polarities. -/
theorem driveStatusReadShowsTheSelectedDrive : Obligations.DriveStatusReadShowsTheSelectedDrive := by
  intro s
  refine ⟨drvstatOf s, rfl, statusByte_fill .., ?_, ?_, ?_⟩
  · rw [drvstatOf, statusByte_bit5, selectedSignal_eq_true_iff]
  · rw [drvstatOf, statusByte_bit6, high_iff_polarize_iff, selectedSignal_eq_true_iff]
  · rw [drvstatOf, statusByte_bit7, high_iff_polarize_iff, selectedSignal_eq_true_iff]

/-! ### The control write (R93 to R96) -/

section ControlWrite

variable {v : Byte} {s : State}

theorem exec_wrControl_of_wren_clear (h : ctlWren v = false) : exec (.wrControl v) s = .next (controlWrite v s) :=
  if_neg (Bool.eq_false_iff.1 h)

theorem exec_wrControl_of_wren_set (h : ctlWren v = true) : exec (.wrControl v) s = .refused .writeEnable :=
  if_pos h

theorem latch_of_no_drive (h : s.driveSel = none) : latch v s = { s with crcEn := ctlCrcen v } := by
  rw [latch, driveCmd_of_no_drive s _ _ h]

theorem latch_of_drive {d : Fin 8} (h : s.driveSel = some d) :
    latch v s = { s with
      crcEn   := ctlCrcen v
      history := .driveCmd s.now d (ctlDir v) (ctlStep v) :: s.history
      drives  := s.drives.modify d.val (Drive.react s.now (ctlDir v) (ctlStep v)) } := by
  simp only [latch, driveCmd, h]
  rfl

theorem controlWrite_of_rising_rden (hv : ctlRden v = true) (hm : s.mode = .idle) :
    controlWrite v s = readOn (latch v s) := by
  simp only [controlWrite, hm, hv, if_true]

theorem controlWrite_of_falling_rden (hv : ctlRden v = false) (hm : s.mode = .reading) :
    controlWrite v s = readOff (latch v s) := by
  simp only [controlWrite, hm, hv, Bool.false_eq_true, if_false]

/-- Without an edge of `RDEN` a control write is the latch alone. -/
theorem controlWrite_of_no_edge (hon : ¬ (s.mode = .idle ∧ ctlRden v = true))
    (hoff : ¬ (s.mode = .reading ∧ ctlRden v = false)) : controlWrite v s = latch v s := by
  rcases controlWrite_cases v s with h | ⟨hm, hv, -⟩ | ⟨hm, hv, -⟩
  · exact h
  · exact absurd ⟨hm, hv⟩ hon
  · exact absurd ⟨hm, hv⟩ hoff

end ControlWrite

/-- Settles O32: the state of the statement is the latch's, and the edge of `RDEN`, if there is one, acts on it. -/
theorem controlWriteActsOnItsFields : Obligations.ControlWriteActsOnItsFields := by
  intro v s hwren c
  have hlatch : latch v s = c := by
    rcases Option.eq_none_or_eq_some s.driveSel with hd | ⟨d, hd⟩
    · rw [latch_of_no_drive hd]
      simp only [c, hd]
      rfl
    · rw [latch_of_drive hd]
      simp only [c, hd]
      rfl
  rw [exec_wrControl_of_wren_clear hwren, ← hlatch]
  refine ⟨fun hv hm => ⟨_, rfl, ?_⟩, fun hv hm => ⟨_, rfl, ?_⟩, fun hv hm => ?_, fun hv hm => ?_⟩
  · rw [controlWrite_of_rising_rden hv hm]
  · rw [controlWrite_of_falling_rden hv hm]
  · rw [controlWrite_of_no_edge (fun h => hm h.1) (fun h => Bool.false_ne_true (h.2.symm.trans hv))]
  · rw [controlWrite_of_no_edge (fun h => Bool.false_ne_true (hv.symm.trans h.2)) (fun h => hm h.1)]

/-- Settles O33: the operation is the update the rule writes out. -/
theorem readOnStartsTheSearchAndHoldsTheHost : Obligations.ReadOnStartsTheSearchAndHoldsTheHost := fun _ => rfl

/-- Settles O34: the operation is the update the rule writes out. -/
theorem readOffDiscardsTheTransientState : Obligations.ReadOffDiscardsTheTransientState := fun _ => rfl

/-- Settles O38: the one of the three with a test is the control write, and bit 3 decides it. -/
theorem writePathIsRefused : Obligations.WritePathIsRefused :=
  ⟨fun _ _ => rfl, fun _ _ h => exec_wrControl_of_wren_set h, fun _ _ => rfl⟩

/-! ### The drive-select write and the data read (R98, R99) -/

theorem selDrv_val (v : Byte) : (selDrv v).val = v.toNat % 8 :=
  BitVec.extractLsb'_toNat 0 3 v

theorem selection_eq_none_of_deselect {v : Byte} (s : State) (h : selSel v = false) : selection v s = none :=
  if_neg fun hsel => Bool.false_ne_true (h.symm.trans hsel.1)

theorem selection_of_select {v : Byte} (s : State) (h : selSel v = true) :
    selection v s =
      if (selDrv v).val < s.cfg.nDrives ∧ driveSignal s (selDrv v) (·.ready) s.now = true then some (selDrv v)
      else none := by
  simp only [selection, h, true_and]

/-- Settles O35: with bit 3 set, the index of bits 2:0 is the drive the selection tests. -/
theorem driveSelectWriteSelectsAReadyDrive : Obligations.DriveSelectWriteSelectsAReadyDrive := by
  intro v s
  have hexec : exec (.wrDrvsel v) s = .next { s with driveSel := selection v s } := rfl
  rw [hexec]
  refine ⟨fun h => by rw [selection_eq_none_of_deselect s h], fun n hsel hn => ?_⟩
  obtain rfl : n = selDrv v := Fin.ext (hn.trans (selDrv_val v).symm)
  rw [selection_of_select s hsel]
  exact ⟨fun hfitted hready => by rw [if_pos ⟨hfitted, hready⟩], fun hrejected => by rw [if_neg hrejected]⟩

/-- Settles O36: `CONSUMED` decides between the answer and the hold. -/
theorem dataReadReturnsOrHolds : Obligations.DataReadReturnsOrHolds :=
  fun _ => ⟨fun h => congrArg Host.Outcome.next (if_neg (Bool.eq_false_iff.1 h)),
    fun h => congrArg Host.Outcome.next (if_pos h)⟩

/-! ### The step and the undecoded access (R91, R104) -/

/-- An address outside the three ports has the port field "not decoded". -/
theorem portOf_of_outside {c : Config} {a : Nat} (h : a < c.portBase ∨ c.portBase + 2 < a) : portOf c a = 3 := by
  rcases portOf_cases c a with ⟨-, ha⟩ | ⟨-, ha⟩ | ⟨-, ha⟩ | h3
  · omega
  · omega
  · omega
  · exact h3

/-- Settles O37: the access is the next input and decodes to `NOT_DECODED`, which answers the state it finds. -/
theorem undecodedAccessChangesNothing : Obligations.UndecodedAccessChangesNothing := by
  refine ⟨fun _ _ => rfl, fun s t w a v is ha hg hin hahead => ?_⟩
  have hop : decodeBus (busWord w (portOf s.cfg a) v) = .notDecoded w := by
    rw [portOf_of_outside ha, decodeBus_busWord]
    rfl
  rw [step_of_access hg hin hahead, hop]
  rfl

/-- Settles O40: the step follows the fetch, and with no timer due an access is fetched with its word. -/
theorem stepRunsTheDecodedOperation : Obligations.StepRunsTheDecodedOperation := by
  intro s
  refine ⟨fun hf => by rw [step, hf], fun bs s' i hf hdec => ?_, fun t w a v is i hg hin hahead hdec => ?_⟩
  · rw [step, hf]
    simp only [hdec]
  · rw [decode_busBytes] at hdec
    cases hdec
    exact step_of_access hg hin hahead

end Sys2Proof.Machine
end

section
/-! Totality (rules R107, R108): the host accesses the block answers and the two it refuses, and from them what a step can
answer. -/

namespace Sys2Proof.Machine

/-- A host access is answered, unless it is a write to the control port with bit 3 set or a write to the data port. -/
theorem exec_access_total (c : Config) (w : Bool) (a : Nat) (v : Byte) (s : State) :
    (∃ t, exec (decodeBus (busWord w (portOf c a) v)) s = .next t) ∨
    w = true ∧
      (a = c.portBase ∧ v.getLsbD 3 = true ∧
        exec (decodeBus (busWord w (portOf c a) v)) s = .refused .writeEnable ∨
       a = c.portBase + 2 ∧ exec (decodeBus (busWord w (portOf c a) v)) s = .refused .dataPortWrite) := by
  rw [decodeBus_busWord]
  rcases portOf_cases c a with ⟨hp, ha⟩ | ⟨hp, -⟩ | ⟨hp, ha⟩ | hp <;> rw [hp]
  · cases w with
    | false => exact .inl ⟨_, rfl⟩
    | true =>
      cases hbit : v.getLsbD 3 with
      | false => exact .inl ⟨_, exec_wrControl_of_wren_clear hbit⟩
      | true => exact .inr ⟨rfl, .inl ⟨ha, rfl, rfl⟩⟩
  · cases w <;> exact .inl ⟨_, rfl⟩
  · cases w with
    | false => exact .inl ⟨_, rfl⟩
    | true => exact .inr ⟨rfl, .inr ⟨ha, rfl⟩⟩
  · exact .inl ⟨_, rfl⟩

/-- Settles O44: a delivery and a reset always answer, and an access answers but for the two refused writes. -/
theorem stepIsTotalButForTheWritePath : Obligations.StepIsTotalButForTheWritePath := by
  intro s
  rcases step_cases s with ⟨-, hd⟩ | ⟨i, is, j, hnext, -, hdec, he⟩
  · exact .inl ⟨_, hd⟩
  · rw [input_decodes] at hdec
    cases hdec
    rw [he]
    cases i with
    | reset t e => exact .inl ⟨_, rfl⟩
    | access t w a v =>
      refine (exec_access_total s.cfg w a v _).imp_right fun ⟨hw, hrefused⟩ => ?_
      exact ⟨t, w, a, v, is, hnext, hw, hrefused⟩

end Sys2Proof.Machine
end

section
/-! The reset input, and the two reads that hold the host for ever: a read with no drive selected and a data read in
`Idle` (rules R118, R119, R121, R122). -/

namespace Sys2Proof.Machine

/-! ### RESET (R118, R119) -/

/-- Settles O1: the operation is the update the rule writes out. -/
theorem resetGivesEveryElementItsResetValue : Obligations.ResetGivesEveryElementItsResetValue := fun _ => rfl

/-- Settles O3: the reset state is written out with the values of the table. -/
theorem resetStateHoldsTheResetTable : Obligations.ResetStateHoldsTheResetTable := by
  have htimers : ∀ k, State.reset.timers.get k = none := fun k => by cases k <;> rfl
  exact ⟨rfl, rfl, rfl, rfl, rfl, rfl, rfl, rfl, rfl, rfl, rfl, rfl, htimers, rfl, rfl, rfl⟩

/-- `RESET` reads nothing of the block but `NOW`. -/
theorem resetBlock_congr {s t : State} (hnow : s.now = t.now) (hcfg : s.cfg = t.cfg) (hdrives : s.drives = t.drives)
    (hinputs : s.inputs = t.inputs) (hhistory : s.history = t.history) (hbit : s.microBit = t.microBit) :
    resetBlock s = resetBlock t := by
  simp only [resetBlock, hnow, hcfg, hdrives, hinputs, hhistory, hbit]

theorem resetBlock_idempotent (s : State) : resetBlock (resetBlock s) = resetBlock s := rfl

/-- A reset at the head of the pending inputs comes next, whether the gate is open or closed. -/
theorem nextInput_of_reset {s : State} {t : Nat} {e : Bool} {is : List Input} (h : s.inputs = .reset t e :: is) :
    nextInput s = some (.reset t e, is) := by
  cases hg : s.gate with
  | opened => exact nextInput_of_opened hg h
  | blocked op => rw [nextInput_of_held (by simp [hg]), h, takeReset]

/-- An early reset goes before the timers of its own time. -/
theorem timerFirst_early_reset {tm : Timers} {n : Nat} (h : ∀ k f, tm.get k = some f → n ≤ f) (t : Nat) :
    timerFirst tm n (.reset t true) = false := by
  cases he : earliest tm with
  | none => simp only [timerFirst, he]
  | some p =>
    have hp : n ≤ p.2 := h p.1 p.2 (earliest_eq_some tm p.1 p.2 he).1
    simp only [timerFirst, he, decide_eq_false (Nat.not_lt.2 hp)]

/-- An early reset raised now is the next step, whatever the gate and the armed timers. -/
theorem step_of_early_reset {s : State} {is : List Input} (hahead : ∀ k f, s.timers.get k = some f → s.now ≤ f)
    (hin : s.inputs = .reset s.now true :: is) : step s = exec .reset { s with inputs := is } := by
  have hfirst : timerFirst s.timers s.now (.reset s.now true) = false := timerFirst_early_reset hahead s.now
  have hfetch : fetch s = some ((Input.reset s.now true).bytes s.cfg, { s with inputs := is }) := by
    simp only [fetch, nextInput_of_reset hin, Input.time, max_self, hfirst, Bool.false_eq_true, if_false]
  rw [step, hfetch]
  simp only [input_decodes]

/-- Settles O2. -/
theorem resetIsIdempotentAndAlwaysEnabled : Obligations.ResetIsIdempotentAndAlwaysEnabled := by
  refine ⟨fun s s' hnow hcfg hdrives hinputs hhistory hbit => ?_, fun s t h => ?_, fun s is => step_of_early_reset⟩
  · exact congrArg Host.Outcome.next (resetBlock_congr hnow hcfg hdrives hinputs hhistory hbit)
  · cases h
    exact congrArg Host.Outcome.next (resetBlock_idempotent s)

/-! ### A held host with no reset to come (R89, R119) -/

theorem takeReset_of_accesses {l : List Input} (h : ∀ i ∈ l, i.isAccess = true) : takeReset l = none := by
  induction l with
  | nil => rfl
  | cons i is ih =>
    cases i with
    | reset t e => exact absurd (h _ List.mem_cons_self) nofun
    | access t w a v => rw [takeReset, ih fun i hi => h i (List.mem_cons_of_mem _ hi), Option.map_none]

/-- While the host is held and no reset is to come, every step is the scheduler's. -/
theorem step_of_held {s : State} (hg : s.gate ≠ .opened) (hin : ∀ i ∈ s.inputs, i.isAccess = true) :
    step s = .next (deliver s) := by
  have hfetch : fetch s = none := by rw [fetch, nextInput_of_held hg, takeReset_of_accesses hin]
  rw [step, hfetch]
  rfl

theorem run_succ_of_step {M : Host.Core} {s u : M.State} (h : M.step s = .next u) (n : Nat) :
    M.run (n + 1) s = M.run n u := by
  rw [Host.Core.run, h]

/-- What every step answers and keeps, every number of steps answers and keeps. -/
theorem run_preserves {P : State → Prop} (hstep : ∀ s, P s → ∃ t, step s = .next t ∧ P t) (n : Nat)
    {s : State} (h : P s) : ∃ t, Host.Core.run core n s = .next t ∧ P t := by
  induction n generalizing s with
  | zero => exact ⟨s, rfl, h⟩
  | succ n ih =>
    obtain ⟨u, hu, hPu⟩ := hstep s h
    obtain ⟨t, ht, hPt⟩ := ih hPu
    exact ⟨t, (run_succ_of_step (M := core) hu n).trans ht, hPt⟩

/-! ### A read with no drive selected (R66, R122) -/

/-- A search with no drive selected: the host is held on its control write, and the accesses pending are `l`. -/
structure DrivelessSearch (l : List Input) (s : State) : Prop where
  reading   : s.mode = .reading
  searching : s.syncState = .searchingSync
  noDrive   : s.driveSel = none
  held      : s.gate = .blocked .wrControl
  pending   : s.inputs = l

namespace DrivelessSearch

variable {l : List Input} {s : State}

/-- Both half-bits of every pair are 0, so the tick of the search clears the counter and goes on searching. -/
theorem tickLock_keeps (h : DrivelessSearch l s) : DrivelessSearch l (tickLock s) := by
  have hpair : (sep s).1 = (sep (sep s).2).1 := by
    rw [sep_bit, sep_bit, sepAt_no_drive s _ h.noDrive, sepAt_no_drive (sep s).2 _ h.noDrive]
  rw [tickLock_of_searchingSync h.reading h.searching, searchSync_of_equal_pair hpair]
  exact { h with }

/-- A byte tick acts in `LOCKED` alone. -/
theorem tickByte_keeps (h : DrivelessSearch l s) : DrivelessSearch l (tickByte s) := by
  have hl : ¬ (s.mode = .reading ∧ s.syncState = .locked) := by simp [h.searching]
  rwa [tickByte, if_neg hl]

theorem deliver_keeps (h : DrivelessSearch l s) : DrivelessSearch l (deliver s) :=
  deliver_preserves h (fun _ _ => { h with }) (fun _ => tickLock_keeps) (fun _ => tickByte_keeps)

theorem step_keeps (hl : ∀ i ∈ l, i.isAccess = true) (h : DrivelessSearch l s) :
    ∃ t, step s = .next t ∧ DrivelessSearch l t :=
  ⟨deliver s, step_of_held (by simp [h.held]) (h.pending ▸ hl), h.deliver_keeps⟩

end DrivelessSearch

/-- Settles O58: every step keeps the driveless search, so any number of steps does. Of the invariant nothing is
needed. -/
theorem readWithNoDriveHangsTheHost : Obligations.ReadWithNoDriveHangsTheHost := by
  intro n s _ hr hs hd hg hl
  obtain ⟨t, ht, hkept⟩ := run_preserves (fun _ => DrivelessSearch.step_keeps hl) n ⟨hr, hs, hd, hg, rfl⟩
  exact ⟨t, ht, hkept.held, hkept.reading, hkept.searching, hkept.pending⟩

/-! ### A data read in `Idle` (R121) -/

theorem Inv.no_timer_of_idle {s : State} (h : Inv s) (hi : s.mode = .idle) (k : TimerId) : s.timers.get k = none := by
  obtain ⟨-, -, -, -, -, htimeout, hlock, hbyte⟩ := h.idle hi
  cases k with
  | timeout => exact htimeout
  | lock => exact hlock
  | byte => exact hbyte
  | aux => exact h.auxIdle

/-- In `Idle` there is no unread byte, so a data read is held. -/
theorem readData_of_idle {s : State} (h : Inv s) (hi : s.mode = .idle) : readData s = stall .rdData s := by
  obtain ⟨-, -, -, -, hconsumed, -⟩ := h.idle hi
  exact if_pos hconsumed

/-- Settles O59: the read is held, and in the state it leaves the scheduler has the step and finds no timer. -/
theorem dataReadInIdleHangsTheHost : Obligations.DataReadInIdleHangsTheHost := by
  intro n s t h hi hin ht
  have hheld : t = stall .rdData s := (exec_next _ _ _ ht).trans (readData_of_idle h hi)
  have hgate : t.gate = .blocked .rdData := by rw [hheld]; rfl
  have hstep : step t = .next t := by
    have hdeliver : deliver t = t := deliver_of_no_timer (by rw [hheld]; exact h.no_timer_of_idle hi)
    rw [step_of_held (by simp [hgate]) (by rw [hheld]; exact hin), hdeliver]
  obtain ⟨u, hu, rfl⟩ := run_preserves (P := (· = t)) (fun _ hu => ⟨t, hu ▸ hstep, rfl⟩) n rfl
  exact ⟨hgate, hu⟩

end Sys2Proof.Machine
end
